-- ==== Sys2Proof/Word.lean ====
section
/-! DEFINITION. The word types of IHSIE-CORE, the two forms of a tile, the grid numbers and the command request. -/

namespace Sys2Proof

/-- A byte is 8 bits (spec/00_scope.md R7). -/
abbrev Byte := BitVec 8

/-- A 32-bit value: a canvas word, an ARGB colour, a `result` (spec/20_memory.md R47, R51). -/
abbrev Color := BitVec 32

/-- A palette index as stored: 2 bits (spec/10_state.md R29). -/
abbrev PalIndex := BitVec 2

/-- A raw tile: 16 bytes, bytes 0-7 the low plane, bytes 8-15 the high plane (spec/10_state.md R28). -/
abbrev RawTile := Vector Byte 16

/-- A palletized tile: 8 rows of 8 palette indices, row first, then column (spec/10_state.md R29). -/
abbrev PalTile := Vector (Vector PalIndex 8) 8

/-- The two grids the block holds (spec/10_state.md R26). -/
inductive GridId where
  | g0
  | g1
deriving DecidableEq, Repr

/-- A command request as the host delivers it: the 64-bit command word and a 128-bit payload, which only
SET_TILE looks at (spec/30_encoding.md R63). -/
structure Request where
  cmd : BitVec 64
  wdata : BitVec 128
deriving DecidableEq, Repr

end Sys2Proof
end

