-- ==== Sys2Proof/Syntax.lean ====
section
/-! DEFINITION. The sixteen commands of spec/30_encoding.md R68 as syntax, one constructor a row of the opcode
map. Operand names follow spec/30_encoding.md R75; each operand has exactly its field's width (R64, R65). -/

namespace Sys2Proof

inductive Instr where
  /-- DECODE_TILE gG, TI (spec/40_codec.md R87). -/
  | decodeTile (g : GridId) (ti : BitVec 16)
  /-- ENCODE_TILE gG, TI (spec/40_codec.md R88). -/
  | encodeTile (g : GridId) (ti : BitVec 16)
  /-- PAL_TO_COLOR IDX (spec/41_palette.md R93). -/
  | palToColor (idx : BitVec 8)
  /-- COLOR_TO_PAL COLOR (spec/41_palette.md R94). -/
  | colorToPal (color : BitVec 32)
  /-- GRID_INIT gG, XC, YC (spec/42_grid.md R99). -/
  | gridInit (g : GridId) (xc yc : BitVec 16)
  /-- TILE_INDEX gG, TX, TY (spec/42_grid.md R100). -/
  | tileIndex (g : GridId) (tx ty : BitVec 16)
  /-- GET_TILE gG, TI (spec/42_grid.md R101). -/
  | getTile (g : GridId) (ti : BitVec 16)
  /-- SET_TILE gG, TI with its 128-bit payload (spec/42_grid.md R102). -/
  | setTile (g : GridId) (ti : BitVec 16) (wdata : BitVec 128)
  /-- GET_PAL gG, TI, X, Y (spec/42_grid.md R103). -/
  | getPal (g : GridId) (ti : BitVec 16) (x y : BitVec 8)
  /-- SET_PAL gG, TI, X, Y, V (spec/42_grid.md R104). -/
  | setPal (g : GridId) (ti : BitVec 16) (x y v : BitVec 8)
  /-- GET_RAW_BYTE gG, TI, BI (spec/42_grid.md R105). -/
  | getRawByte (g : GridId) (ti : BitVec 16) (bi : BitVec 8)
  /-- SET_RAW_BYTE_BIT gG, TI, BI, BM (spec/42_grid.md R106). -/
  | setRawByteBit (g : GridId) (ti : BitVec 16) (bi bm : BitVec 8)
  /-- COPY_PAL gG, TI, gS, STI: destination first, then source (spec/42_grid.md R107). -/
  | copyPal (g : GridId) (ti : BitVec 16) (src : GridId) (sti : BitVec 16)
  /-- SET_CANVAS_BASE BASE (spec/43_compositor.md R126). -/
  | setCanvasBase (base : BitVec 32)
  /-- SET_CANVAS_DIM W, H (spec/43_compositor.md R127). -/
  | setCanvasDim (w h : BitVec 16)
  /-- DRAW_TILE gG, TI, DX, DY, with or without mirror (spec/43_compositor.md R129). -/
  | drawTile (g : GridId) (ti : BitVec 16) (dx dy : BitVec 16) (mirror : Bool)
deriving DecidableEq, Repr

end Sys2Proof
end

