-- ==== Sys2Proof/Decode.lean ====
section
/-! DEFINITION. The command word: its fields, the opcode map, the decoder (spec/30_encoding.md R64-R73) and the
encoder. The decoder is total on all 2^64 words and refuses by name; the FAULTED test that comes before it (R70)
is the machine's. -/

namespace Sys2Proof

/-- The two ways a word is no command (spec/30_encoding.md R72). -/
inductive DecodeFault where
  /-- `OPC` is not one of the 16 opcodes (R71). -/
  | illegalOpcode
  /-- A reserved bit of the word is 1 (R69). -/
  | reservedNonzero
deriving DecidableEq, Repr

/-- The rows of the opcode map, spec/30_encoding.md R68. -/
inductive Op where
  | decodeTile | encodeTile | palToColor | colorToPal | gridInit | tileIndex | getTile | setTile
  | getPal | setPal | getRawByte | setRawByteBit | copyPal | setCanvasBase | setCanvasDim | drawTile
deriving DecidableEq, Repr

/-- The `OPC` column of spec/30_encoding.md R68. -/
def Op.opc : Op → BitVec 8
  | .decodeTile => 0x10#8
  | .encodeTile => 0x11#8
  | .palToColor => 0x20#8
  | .colorToPal => 0x21#8
  | .gridInit => 0x30#8
  | .tileIndex => 0x31#8
  | .getTile => 0x32#8
  | .setTile => 0x33#8
  | .getPal => 0x34#8
  | .setPal => 0x35#8
  | .getRawByte => 0x36#8
  | .setRawByteBit => 0x37#8
  | .copyPal => 0x38#8
  | .setCanvasBase => 0x40#8
  | .setCanvasDim => 0x41#8
  | .drawTile => 0x42#8

/-- The `match` column of spec/30_encoding.md R68. -/
def Op.pattern : Op → BitVec 64
  | .decodeTile => 0x1000000000000000#64
  | .encodeTile => 0x1100000000000000#64
  | .palToColor => 0x2000000000000000#64
  | .colorToPal => 0x2100000000000000#64
  | .gridInit => 0x3000000000000000#64
  | .tileIndex => 0x3100000000000000#64
  | .getTile => 0x3200000000000000#64
  | .setTile => 0x3300000000000000#64
  | .getPal => 0x3400000000000000#64
  | .setPal => 0x3500000000000000#64
  | .getRawByte => 0x3600000000000000#64
  | .setRawByteBit => 0x3700000000000000#64
  | .copyPal => 0x3800000000000000#64
  | .setCanvasBase => 0x4000000000000000#64
  | .setCanvasDim => 0x4100000000000000#64
  | .drawTile => 0x4200000000000000#64

/-- The `mask` column of spec/30_encoding.md R68: the bits that must be as the pattern says. -/
def Op.mask : Op → BitVec 64
  | .decodeTile => 0xFF7F0000FFFFFFFF#64
  | .encodeTile => 0xFF7F0000FFFFFFFF#64
  | .palToColor => 0xFFFFFFFFFFFFFF00#64
  | .colorToPal => 0xFFFFFFFF00000000#64
  | .gridInit => 0xFF7FFFFF00000000#64
  | .tileIndex => 0xFF7FFFFF00000000#64
  | .getTile => 0xFF7F0000FFFFFFFF#64
  | .setTile => 0xFF7F0000FFFFFFFF#64
  | .getPal => 0xFF7F0000FFFF0000#64
  | .setPal => 0xFF7F0000FF000000#64
  | .getRawByte => 0xFF7F0000FFFFFF00#64
  | .setRawByteBit => 0xFF7F0000FFFF0000#64
  | .copyPal => 0xFF3F0000FFFF0000#64
  | .setCanvasBase => 0xFFFFFFFF00000000#64
  | .setCanvasDim => 0xFFFFFFFF00000000#64
  | .drawTile => 0xFF5F000000000000#64

/-- All rows, in the table's order. -/
def Op.all : List Op :=
  [.decodeTile, .encodeTile, .palToColor, .colorToPal, .gridInit, .tileIndex, .getTile, .setTile,
   .getPal, .setPal, .getRawByte, .setRawByteBit, .copyPal, .setCanvasBase, .setCanvasDim, .drawTile]

/-- The row with a given `OPC`, if there is one (the set of spec/30_encoding.md R70). -/
def opOfOpc (opc : BitVec 8) : Option Op :=
  Op.all.find? fun op => op.opc == opc

/-! ### Fields (spec/30_encoding.md R64, R65) -/

/-- `cmd[63:56]`. -/
def opcField (cmd : BitVec 64) : BitVec 8 := cmd.extractLsb' 56 8

/-- `cmd[55]`. -/
def gField (cmd : BitVec 64) : Bool := cmd.getLsbD 55

/-- `cmd[54]`. -/
def sField (cmd : BitVec 64) : Bool := cmd.getLsbD 54

/-- `cmd[53]`. -/
def mField (cmd : BitVec 64) : Bool := cmd.getLsbD 53

/-- `cmd[47:32]`. -/
def tiField (cmd : BitVec 64) : BitVec 16 := cmd.extractLsb' 32 16

/-- `WORD = LO[31:0]`, format W. -/
def wordField (cmd : BitVec 64) : BitVec 32 := cmd.extractLsb' 0 32

/-- `A = LO[15:0]`, format D. -/
def aField (cmd : BitVec 64) : BitVec 16 := cmd.extractLsb' 0 16

/-- `B = LO[31:16]`, format D. -/
def bField (cmd : BitVec 64) : BitVec 16 := cmd.extractLsb' 16 16

/-- `IDX = LO[7:0]`, format I. -/
def idxField (cmd : BitVec 64) : BitVec 8 := cmd.extractLsb' 0 8

/-- `X = LO[7:0]`, format P. -/
def xField (cmd : BitVec 64) : BitVec 8 := cmd.extractLsb' 0 8

/-- `Y = LO[15:8]`, format P. -/
def yField (cmd : BitVec 64) : BitVec 8 := cmd.extractLsb' 8 8

/-- `V = LO[23:16]`, format P. -/
def vField (cmd : BitVec 64) : BitVec 8 := cmd.extractLsb' 16 8

/-- `BI = LO[7:0]`, format B. -/
def biField (cmd : BitVec 64) : BitVec 8 := cmd.extractLsb' 0 8

/-- `BM = LO[15:8]`, format B. -/
def bmField (cmd : BitVec 64) : BitVec 8 := cmd.extractLsb' 8 8

/-- `STI = LO[15:0]`, format X. -/
def stiField (cmd : BitVec 64) : BitVec 16 := cmd.extractLsb' 0 16

/-- The grid a grid bit names: 0 is grid 0, 1 is grid 1 (spec/30_encoding.md R64, R75). -/
def gridOfBit (b : Bool) : GridId := if b then .g1 else .g0

/-- The bit that names a grid. -/
def bitOfGrid : GridId → Bool
  | .g0 => false
  | .g1 => true

/-- The instruction a row's used fields make ("Used fields" and "Format" of spec/30_encoding.md R68). -/
def Op.instr (op : Op) (r : Request) : Instr :=
  match op with
  | .decodeTile => .decodeTile (gridOfBit (gField r.cmd)) (tiField r.cmd)
  | .encodeTile => .encodeTile (gridOfBit (gField r.cmd)) (tiField r.cmd)
  | .palToColor => .palToColor (idxField r.cmd)
  | .colorToPal => .colorToPal (wordField r.cmd)
  | .gridInit => .gridInit (gridOfBit (gField r.cmd)) (aField r.cmd) (bField r.cmd)
  | .tileIndex => .tileIndex (gridOfBit (gField r.cmd)) (aField r.cmd) (bField r.cmd)
  | .getTile => .getTile (gridOfBit (gField r.cmd)) (tiField r.cmd)
  | .setTile => .setTile (gridOfBit (gField r.cmd)) (tiField r.cmd) r.wdata
  | .getPal => .getPal (gridOfBit (gField r.cmd)) (tiField r.cmd) (xField r.cmd) (yField r.cmd)
  | .setPal =>
    .setPal (gridOfBit (gField r.cmd)) (tiField r.cmd) (xField r.cmd) (yField r.cmd) (vField r.cmd)
  | .getRawByte => .getRawByte (gridOfBit (gField r.cmd)) (tiField r.cmd) (biField r.cmd)
  | .setRawByteBit =>
    .setRawByteBit (gridOfBit (gField r.cmd)) (tiField r.cmd) (biField r.cmd) (bmField r.cmd)
  | .copyPal =>
    .copyPal (gridOfBit (gField r.cmd)) (tiField r.cmd) (gridOfBit (sField r.cmd)) (stiField r.cmd)
  | .setCanvasBase => .setCanvasBase (wordField r.cmd)
  | .setCanvasDim => .setCanvasDim (aField r.cmd) (bField r.cmd)
  | .drawTile =>
    .drawTile (gridOfBit (gField r.cmd)) (tiField r.cmd) (aField r.cmd) (bField r.cmd) (mField r.cmd)

/-- The decoder: the two decode steps of `Issue` (spec/30_encoding.md R70) after the FAULTED test. -/
def decode (r : Request) : Except DecodeFault Instr :=
  match opOfOpc (opcField r.cmd) with
  | none => .error .illegalOpcode
  | some op => if r.cmd &&& op.mask = op.pattern then .ok (op.instr r) else .error .reservedNonzero

/-! ### The encoder -/

/-- A command word put together from the fields of spec/30_encoding.md R64, `RSV` zero. -/
def commandWord (opc : BitVec 8) (g s m : Bool) (ti : BitVec 16) (lo : BitVec 32) : BitVec 64 :=
  opc ++ BitVec.ofBool g ++ BitVec.ofBool s ++ BitVec.ofBool m ++ 0#5 ++ ti ++ lo

/-- `LO` from its four bytes, `LO[31:24]` first: formats I, P and B (spec/30_encoding.md R65). -/
def loBytes (b3 b2 b1 b0 : BitVec 8) : BitVec 32 := b3 ++ b2 ++ b1 ++ b0

/-- `LO` from its two halves, `LO[31:16]` first: formats D and X (spec/30_encoding.md R65). -/
def loPair (b a : BitVec 16) : BitVec 32 := b ++ a

/-- The row an instruction belongs to. -/
def Instr.op : Instr → Op
  | .decodeTile _ _ => .decodeTile
  | .encodeTile _ _ => .encodeTile
  | .palToColor _ => .palToColor
  | .colorToPal _ => .colorToPal
  | .gridInit _ _ _ => .gridInit
  | .tileIndex _ _ _ => .tileIndex
  | .getTile _ _ => .getTile
  | .setTile _ _ _ => .setTile
  | .getPal _ _ _ _ => .getPal
  | .setPal _ _ _ _ _ => .setPal
  | .getRawByte _ _ _ => .getRawByte
  | .setRawByteBit _ _ _ _ => .setRawByteBit
  | .copyPal _ _ _ _ => .copyPal
  | .setCanvasBase _ => .setCanvasBase
  | .setCanvasDim _ _ => .setCanvasDim
  | .drawTile _ _ _ _ _ => .drawTile

/-- The command word of an instruction: its `OPC` and the fields its format gives it (spec/30_encoding.md R65,
R68, R75), every other bit 0 (R69). -/
def encodeWord (i : Instr) : BitVec 64 :=
  match i with
  | .decodeTile g ti => commandWord i.op.opc (bitOfGrid g) false false ti 0#32
  | .encodeTile g ti => commandWord i.op.opc (bitOfGrid g) false false ti 0#32
  | .palToColor idx => commandWord i.op.opc false false false 0#16 (loBytes 0#8 0#8 0#8 idx)
  | .colorToPal color => commandWord i.op.opc false false false 0#16 color
  | .gridInit g xc yc => commandWord i.op.opc (bitOfGrid g) false false 0#16 (loPair yc xc)
  | .tileIndex g tx ty => commandWord i.op.opc (bitOfGrid g) false false 0#16 (loPair ty tx)
  | .getTile g ti => commandWord i.op.opc (bitOfGrid g) false false ti 0#32
  | .setTile g ti _ => commandWord i.op.opc (bitOfGrid g) false false ti 0#32
  | .getPal g ti x y => commandWord i.op.opc (bitOfGrid g) false false ti (loBytes 0#8 0#8 y x)
  | .setPal g ti x y v => commandWord i.op.opc (bitOfGrid g) false false ti (loBytes 0#8 v y x)
  | .getRawByte g ti bi => commandWord i.op.opc (bitOfGrid g) false false ti (loBytes 0#8 0#8 0#8 bi)
  | .setRawByteBit g ti bi bm => commandWord i.op.opc (bitOfGrid g) false false ti (loBytes 0#8 0#8 bm bi)
  | .copyPal g ti src sti =>
    commandWord i.op.opc (bitOfGrid g) (bitOfGrid src) false ti (loPair 0#16 sti)
  | .setCanvasBase base => commandWord i.op.opc false false false 0#16 base
  | .setCanvasDim w h => commandWord i.op.opc false false false 0#16 (loPair h w)
  | .drawTile g ti dx dy mirror => commandWord i.op.opc (bitOfGrid g) false mirror ti (loPair dy dx)

/-- The payload that goes with an instruction: "present for SET_TILE" (spec/30_encoding.md R73), zero for every
other command, where the block ignores it (R63). -/
def encodePayload : Instr → BitVec 128
  | .decodeTile _ _ => 0#128
  | .encodeTile _ _ => 0#128
  | .palToColor _ => 0#128
  | .colorToPal _ => 0#128
  | .gridInit _ _ _ => 0#128
  | .tileIndex _ _ _ => 0#128
  | .getTile _ _ => 0#128
  | .setTile _ _ wdata => wdata
  | .getPal _ _ _ _ => 0#128
  | .setPal _ _ _ _ _ => 0#128
  | .getRawByte _ _ _ => 0#128
  | .setRawByteBit _ _ _ _ => 0#128
  | .copyPal _ _ _ _ => 0#128
  | .setCanvasBase _ => 0#128
  | .setCanvasDim _ _ => 0#128
  | .drawTile _ _ _ _ _ => 0#128

/-- The request of an instruction. -/
def encode (i : Instr) : Request :=
  { cmd := encodeWord i, wdata := encodePayload i }

/-! ### The opcode table's numbering -/

/-- A request from its bits as spec/opcode_table.json numbers them: the command word in bits 63..0, the payload
in bits 191..64, every bit at or above `nbits` zero. -/
def requestOfBits (nbits w : Nat) : Request :=
  { cmd := BitVec.ofNat 64 (w % 2 ^ nbits)
    wdata := BitVec.ofNat 128 ((w % 2 ^ nbits) >>> 64) }

/-- What the decoder reads from a table word of `nbits` bits. -/
def decodeTableWord (nbits w : Nat) : Option Instr :=
  match decode (requestOfBits nbits w) with
  | .ok i => some i
  | .error _ => none

end Sys2Proof
end

