-- ==== Sys2Proof/Config.lean ====
section
/-! DEFINITION. What is fixed for one machine: the two OPEN parameters of spec/00_scope.md R6, and the host's one constant. -/

namespace Sys2Proof

/-- The OPEN parameters. "A value marked OPEN is an argument of the model" (spec/00_scope.md R6): they are a
field of State that no step changes, so every statement about all states holds for all their values. -/
structure Params where
  /-- `MAX_TILES`: the tile capacity of each grid. -/
  maxTiles : Nat
  /-- `CANVAS_WORDS`: the size of canvas memory in 32-bit words. -/
  canvasWords : Nat
deriving DecidableEq, Repr

/-- The ranges spec/00_scope.md R6 gives: `MAX_TILES` in 1..65536, `CANVAS_WORDS` in 1..2^32. -/
def Params.legal (p : Params) : Bool :=
  decide (1 ≤ p.maxTiles) && decide (p.maxTiles ≤ 65536) &&
    decide (1 ≤ p.canvasWords) && decide (p.canvasWords ≤ 2 ^ 32)

/-- The values in the reset state: those spec/95_test_vectors.md starts its vectors with.
DESIGN CHOICE (log entry 1), unsafe: the spec leaves both open. No statement but those that name this
definition rests on them. -/
def Params.reference : Params := { maxTiles := 256, canvasWords := 4096 }

/-- `FIXED_TILE_WIDTH` of the host's export (spec/44_host_pipelines.md R143). No rule of the block uses it. -/
def fixedTileWidth : Nat := 16

end Sys2Proof
end

