-- ==== Sys2Proof/Machine/State.lean ====
section
/-! DEFINITION. The state of the machine: everything spec/10_state.md R23 gives the block, canvas memory, the two
OPEN parameters, the host's actions still to come and the answer the host got last. -/

namespace Sys2Proof.Machine

/-- Why a step stops the machine. No command does: a contract violation of a command is fault ENTRY
(spec/60_exceptions.md R165), a next state. -/
inductive Fault where
  /-- Raised by a host read of a canvas word nothing has written: "A host read of an unwritten word has no value,
  and a model faults it" (spec/20_memory.md R50, spec/10_state.md R36). Safe. -/
  | canvasWordUnwritten (a : Nat)
  /-- Raised by a host read or write of a word outside canvas memory, which has the words 0 to `CANVAS_WORDS - 1`
  and no other (spec/10_state.md R36). Safe (log entry 4). -/
  | canvasWordAbsent (a : Nat)
deriving DecidableEq, Repr

/-- Why a step has no meaning. -/
inductive Refusal where
  /-- Raised by an arm of `exec` whose instruction has no meaning yet. No arm of this model raises it. Safe. -/
  | notModelled (mnemonic : String)
deriving DecidableEq, Repr

/-- The fault causes, spec/60_exceptions.md R161. -/
inductive Cause where
  | illegalOpcode
  | reservedNonzero
  | tileIndexRange
  | pixelCoordRange
  | byteIndexRange
  | valueRange
  | gridCapacity
  | tileCoordRange
  | canvasBounds
deriving DecidableEq, Repr

/-- The response classes, spec/30_encoding.md R67, spec/60_exceptions.md R159. -/
inductive Status where
  | ok
  | unknownColor
  | fault
  | faulted
deriving DecidableEq, Repr

/-- The response record, spec/30_encoding.md R66. -/
structure Response where
  status : Status
  result : BitVec 32
  rdata : BitVec 128
deriving DecidableEq, Repr

/-- What the host can do, in one total order (spec/20_memory.md R57): issue a command, access a canvas word
(`MemRead(a, 4)`, `MemWrite(a, 4, v)`, spec/00_scope.md R10), apply reset (spec/70_reset_and_hazards.md R179). -/
inductive HostAction where
  | command (r : Request)
  | memRead (a : Nat)
  | memWrite (a : Nat) (v : Color)
  | reset
deriving DecidableEq, Repr

/-- What the host gets from an action: the response to a command, or the word a canvas read gave. -/
inductive Answer where
  | response (r : Response)
  | memData (v : Color)
deriving DecidableEq, Repr

/-- One tile slot: a raw tile and a palletized tile, independent of each other (spec/10_state.md R28-R30). -/
structure Tile where
  raw : RawTile
  pal : PalTile
deriving DecidableEq, Repr

/-- The tile of reset and GRID_INIT: 16 bytes 0x00 and 64 indices 0 (spec/10_state.md R37, spec/42_grid.md R99). -/
def Tile.zero : Tile :=
  { raw := Vector.replicate 16 0#8, pal := Vector.replicate 8 (Vector.replicate 8 0#2) }

/-- Tile storage: the tiles that differ from the zero tile, by rising tile index (`TileStore.wf`). An unlisted
tile is the zero tile. -/
abbrev TileStore := List (Nat × Tile)

/-- Canvas memory: the written words, by rising word index (`Memory.wf`). An unlisted word is unwritten
(spec/10_state.md R36). The word is its smallest addressable unit (spec/20_memory.md R47), and how it lies in
bytes is left open (R51), so the cells are words (log entry 5). -/
abbrev Memory := List (Nat × Color)

/-- One grid: its dimension registers and its tile storage (spec/10_state.md R26-R29). -/
structure Grid where
  xc : BitVec 16
  yc : BitVec 16
  tiles : TileStore
deriving DecidableEq, Repr

/-- The whole machine. -/
structure State where
  /-- The OPEN parameters, fixed for one machine. -/
  params : Params
  /-- `GRID[0]`. -/
  grid0 : Grid
  /-- `GRID[1]`. -/
  grid1 : Grid
  /-- `CANVAS_BASE` (spec/10_state.md R31). -/
  canvasBase : BitVec 32
  /-- `CANVAS_WIDTH` (R32). -/
  canvasWidth : BitVec 16
  /-- `CANVAS_HEIGHT` (R33). -/
  canvasHeight : BitVec 16
  /-- `FAULTED` (R34). -/
  faulted : Bool
  /-- `FAULT_CAUSE` (R35). -/
  faultCause : BitVec 4
  /-- Canvas memory (R36). -/
  canvas : Memory
  /-- What the host got from its latest action (log entry 3). -/
  answer : Option Answer
  /-- The host's actions still to come, the next one first (log entry 2). -/
  pending : List HostAction
deriving DecidableEq, Repr

/-- A grid at reset: no tiles, all storage zero (spec/10_state.md R37). -/
def Grid.reset : Grid := { xc := 0#16, yc := 0#16, tiles := [] }

/-- The reset state for given parameters: spec/10_state.md R37, with every canvas word unwritten as at power-up
(spec/70_reset_and_hazards.md R180, R181). -/
def State.resetWith (p : Params) : State :=
  { params := p
    grid0 := Grid.reset
    grid1 := Grid.reset
    canvasBase := 0#32
    canvasWidth := 0#16
    canvasHeight := 0#16
    faulted := false
    faultCause := 0#4
    canvas := []
    answer := none
    pending := [] }

/-- The machine right after reset at power-up. Its parameters are a DESIGN CHOICE (log entry 1). -/
def State.reset : State := State.resetWith Params.reference

end Sys2Proof.Machine
end

