-- ==== Sys2Proof/Machine/Flags.lean ====
section
/-! DEFINITION. The codes of the fault state and of the response. The block has no condition codes; `FAULTED` and
`FAULT_CAUSE` are its only flags (spec/10_state.md R22, R34, R35). -/

namespace Sys2Proof.Machine

/-- The cause codes of spec/60_exceptions.md R161, as `FAULT_CAUSE` holds them. -/
def Cause.code : Cause → BitVec 4
  | .illegalOpcode => 1#4
  | .reservedNonzero => 2#4
  | .tileIndexRange => 3#4
  | .pixelCoordRange => 4#4
  | .byteIndexRange => 5#4
  | .valueRange => 6#4
  | .gridCapacity => 7#4
  | .tileCoordRange => 8#4
  | .canvasBounds => 9#4

/-- The status codes of spec/30_encoding.md R67. -/
def Status.code : Status → BitVec 2
  | .ok => 0#2
  | .unknownColor => 1#2
  | .fault => 2#2
  | .faulted => 3#2

/-- The cause of a word that is no command (spec/30_encoding.md R70). -/
def causeOfDecodeFault : DecodeFault → Cause
  | .illegalOpcode => .illegalOpcode
  | .reservedNonzero => .reservedNonzero

/-- A cause code as a `result`: `zext_32(code)` (spec/60_exceptions.md R161). -/
def causeResult (code : BitVec 4) : BitVec 32 := code.setWidth 32

end Sys2Proof.Machine
end

