-- ==== Sys2Proof/Machine/Tables.lean ====
section
/-! DEFINITION. The two constant tables, the same in every state (spec/10_state.md R24, R25, spec/41_palette.md R97;
log entry 10). -/

namespace Sys2Proof.Machine

/-- `MASK[x] = 0x80 >> x`: column 0 is the most significant bit (spec/10_state.md R24). -/
def maskTable : Vector Byte 8 :=
  #v[0x80#8, 0x40#8, 0x20#8, 0x10#8, 0x08#8, 0x04#8, 0x02#8, 0x01#8]

/-- `PALETTE`: background, skin tone, outline, equipment (spec/10_state.md R25). -/
def paletteTable : Vector Color 4 :=
  #v[0xFF505050#32, 0xFFE0A0C0#32, 0xFF000000#32, 0xFF60A0C0#32]

/-- `PALETTE[i]` for a stored index, which is 2 bits wide and so always in the table (spec/43_compositor.md R131). -/
def paletteColor (i : PalIndex) : Color := paletteTable[i.toFin]

end Sys2Proof.Machine
end

