-- ==== Sys2Proof/Machine/Ops.lean ====
section
/-! DEFINITION. The shared operations: the association lists behind grid storage and canvas memory, the accessors
of State, responses, fault entry, the refusal while halted, reset, and the frame every command runs in. -/

namespace Sys2Proof.Machine

/-! ### Association lists with natural keys -/

/-- The value listed under a key. -/
def Assoc.find {α : Type} : List (Nat × α) → Nat → Option α
  | [], _ => none
  | (k, v) :: l, a => if k = a then some v else Assoc.find l a

/-- The list with `v` under `a`, kept in rising order. -/
def Assoc.insert {α : Type} : List (Nat × α) → Nat → α → List (Nat × α)
  | [], a, v => [(a, v)]
  | (k, w) :: l, a, v =>
    if a < k then (a, v) :: (k, w) :: l
    else if a = k then (a, v) :: l
    else (k, w) :: Assoc.insert l a v

/-- The list with nothing under `a`. -/
def Assoc.erase {α : Type} (l : List (Nat × α)) (a : Nat) : List (Nat × α) :=
  l.filter fun p => p.1 != a

/-- Keys strictly rise. -/
def Assoc.rising {α : Type} (l : List (Nat × α)) : Bool :=
  decide (l.Pairwise fun p q => p.1 < q.1)

/-- Every key is below a bound. -/
def Assoc.below {α : Type} (l : List (Nat × α)) (bound : Nat) : Bool :=
  l.all fun p => decide (p.1 < bound)

/-! ### Canvas memory -/

/-- The canonical form of canvas memory: word indices strictly rise. An unlisted word has no value, so no entry can
equal what an unlisted word reads as. -/
def Memory.wf (m : Memory) : Bool := Assoc.rising m

/-- The value of word `a`, or none where it is unwritten (spec/10_state.md R36). -/
def Memory.read (m : Memory) (a : Nat) : Option Color := Assoc.find m a

/-- `MemWrite(a, 4, v)` (spec/00_scope.md R10): word `a` becomes written and holds `v`. -/
def Memory.write (m : Memory) (a : Nat) (v : Color) : Memory := Assoc.insert m a v

/-- Several words written one after another. -/
def Memory.writeAll (m : Memory) : List (Nat × Color) → Memory
  | [] => m
  | (a, v) :: ws => Memory.writeAll (Memory.write m a v) ws

/-! ### Tile storage -/

/-- The canonical form of tile storage: tile indices strictly rise and no listed tile is the zero tile. -/
def TileStore.wf (l : TileStore) : Bool :=
  Assoc.rising l && l.all fun p => decide (p.2 ≠ Tile.zero)

/-- Tile `t`; an unlisted tile is the zero tile. -/
def TileStore.tile (l : TileStore) (t : Nat) : Tile := (Assoc.find l t).getD Tile.zero

/-- The storage with tile `t` replaced; a zero tile is not listed. -/
def TileStore.put (l : TileStore) (t : Nat) (x : Tile) : TileStore :=
  if x = Tile.zero then Assoc.erase l t else Assoc.insert l t x

/-! ### Accessors of State (spec/00_scope.md R9) -/

/-- `count` of a grid: `XC * YC`, exact (spec/10_state.md R26). -/
def Grid.count (gr : Grid) : Nat := gr.xc.toNat * gr.yc.toNat

/-- `GRID[g]`. -/
def State.grid (s : State) : GridId → Grid
  | .g0 => s.grid0
  | .g1 => s.grid1

/-- The state with `GRID[g]` replaced. -/
def State.setGrid (s : State) (g : GridId) (gr : Grid) : State :=
  match g with
  | .g0 => { s with grid0 := gr }
  | .g1 => { s with grid1 := gr }

/-- `count(g)`. -/
def State.count (s : State) (g : GridId) : Nat := (s.grid g).count

/-- Both forms of tile `t` of grid `g`. -/
def State.tile (s : State) (g : GridId) (t : Nat) : Tile := (s.grid g).tiles.tile t

/-- `GRID[g].raw[t]`. -/
def State.raw (s : State) (g : GridId) (t : Nat) : RawTile := (s.tile g t).raw

/-- `GRID[g].pal[t]`. -/
def State.pal (s : State) (g : GridId) (t : Nat) : PalTile := (s.tile g t).pal

/-- The state with both forms of tile `t` of grid `g` replaced. -/
def State.setTile (s : State) (g : GridId) (t : Nat) (x : Tile) : State :=
  s.setGrid g { s.grid g with tiles := (s.grid g).tiles.put t x }

/-- `GRID[g].raw[t] <- r`, the palletized form as it was (spec/10_state.md R30). -/
def State.setRaw (s : State) (g : GridId) (t : Nat) (r : RawTile) : State :=
  s.setTile g t { s.tile g t with raw := r }

/-- `GRID[g].pal[t] <- p`, the raw form as it was (spec/10_state.md R30). -/
def State.setPal (s : State) (g : GridId) (t : Nat) (p : PalTile) : State :=
  s.setTile g t { s.tile g t with pal := p }

/-- `GRID[g]` constructed anew: dimensions set, every slot zero (spec/42_grid.md R99). -/
def State.initGrid (s : State) (g : GridId) (xc yc : BitVec 16) : State :=
  s.setGrid g { xc := xc, yc := yc, tiles := [] }

/-- Canvas word `a`. -/
def State.canvasWord (s : State) (a : Nat) : Option Color := Memory.read s.canvas a

/-! ### Responses (spec/30_encoding.md R66, R67) -/

/-- `respond(status, result, rdata)`: the command ends with this response. -/
def State.respond (s : State) (status : Status) (result : BitVec 32) (rdata : BitVec 128) : State :=
  { s with answer := some (.response { status := status, result := result, rdata := rdata }) }

/-- `respond(OK)`. -/
def State.respondOk (s : State) : State := s.respond .ok 0#32 0#128

/-- `respond(OK, result)`. -/
def State.respondResult (s : State) (result : BitVec 32) : State := s.respond .ok result 0#128

/-- `respond(OK, 0, rdata)`. -/
def State.respondData (s : State) (rdata : BitVec 128) : State := s.respond .ok 0#32 rdata

/-! ### Fault entry, the halted state, reset -/

/-- `raise Fault(cause)` (spec/60_exceptions.md R165): FAULTED and FAULT_CAUSE are written, nothing else, and the
response is FAULT with the cause. There is no handler to enter and no return but reset (R167). -/
def State.enterFault (s : State) (c : Cause) : State :=
  { s with faulted := true, faultCause := c.code }.respond .fault (causeResult c.code) 0#128

/-- The answer to any word while `FAULTED = 1` (spec/60_exceptions.md R166): no check runs, no state changes. -/
def State.refuseFaulted (s : State) : State :=
  s.respond .faulted (causeResult s.faultCause) 0#128

/-- Reset, the only way out of the halted state (spec/60_exceptions.md R167): every piece of block state takes the
value of spec/10_state.md R37; canvas memory is not touched (spec/70_reset_and_hazards.md R179, R181). The host's
later actions stand, and reset answers nothing (log entry 3). -/
def State.applyReset (s : State) : State :=
  { State.resetWith s.params with canvas := s.canvas, pending := s.pending }

/-! ### The frame every command runs in -/

/-- One check of a command: whether it fails, and the cause it then raises. -/
abbrev Check := Bool × Cause

/-- The cause of the first check that fails: "The first check that fails raises its fault, and no later check runs"
(spec/60_exceptions.md R164). -/
def firstFailing : List Check → Option Cause
  | [] => none
  | (fails, c) :: cs => if fails then some c else firstFailing cs

/-- A command: the FAULTED test, its checks in order, then all of its effects at once (spec/00_scope.md R11,
spec/30_encoding.md R70, spec/60_exceptions.md R163). `done` is the state its effects and its response make. -/
def runCommand (s : State) (checks : List Check) (done : State) : Host.Outcome State Fault Refusal :=
  if s.faulted then .next s.refuseFaulted
  else match firstFailing checks with
    | some c => .next (s.enterFault c)
    | none => .next done

end Sys2Proof.Machine
end

