-- ==== Sys2Proof/Machine/Operands.lean ====
section
/-! DEFINITION. Operands: the checks a command makes on them (spec/60_exceptions.md R161, R162), how a byte, a
pixel and a payload lane are picked, and the addresses a draw writes. All arithmetic is on exact naturals
(spec/00_scope.md R8). -/

namespace Sys2Proof.Machine

/-! ### Checks -/

/-- `checkTile(g, t)` (spec/42_grid.md R98). -/
def State.checkTile (s : State) (g : GridId) (t : BitVec 16) : Check :=
  (decide (s.count g ≤ t.toNat), .tileIndexRange)

/-- `X > 7 or Y > 7` (spec/42_grid.md R103, R104). -/
def checkPixel (x y : BitVec 8) : Check :=
  (decide (7 < x.toNat) || decide (7 < y.toNat), .pixelCoordRange)

/-- `BI > 15` (spec/42_grid.md R105, R106). -/
def checkByteIndex (bi : BitVec 8) : Check :=
  (decide (15 < bi.toNat), .byteIndexRange)

/-- A palette index above 3: `V` of SET_PAL, `IDX` of PAL_TO_COLOR (spec/42_grid.md R104, spec/41_palette.md R93). -/
def checkValue (v : BitVec 8) : Check :=
  (decide (3 < v.toNat), .valueRange)

/-- `A * B > MAX_TILES` (spec/42_grid.md R99). -/
def State.checkCapacity (s : State) (xc yc : BitVec 16) : Check :=
  (decide (s.params.maxTiles < xc.toNat * yc.toNat), .gridCapacity)

/-- `A >= XC or B >= YC` (spec/42_grid.md R100). -/
def State.checkTileCoord (s : State) (g : GridId) (tx ty : BitVec 16) : Check :=
  (decide ((s.grid g).xc.toNat ≤ tx.toNat) || decide ((s.grid g).yc.toNat ≤ ty.toNat), .tileCoordRange)

/-- The first half of `checkCanvas`: the whole current canvas lies in canvas memory (spec/43_compositor.md R128). -/
def State.checkCanvasFits (s : State) : Check :=
  (decide (s.params.canvasWords < s.canvasBase.toNat + s.canvasWidth.toNat * s.canvasHeight.toNat),
    .canvasBounds)

/-- The second half of `checkCanvas`: the whole 8 x 8 block lies inside the current canvas (spec/43_compositor.md
R128). -/
def State.checkBlockFits (s : State) (dx dy : BitVec 16) : Check :=
  (decide (s.canvasWidth.toNat < dx.toNat + 8) || decide (s.canvasHeight.toNat < dy.toNat + 8),
    .canvasBounds)

/-! ### Picking and replacing -/

/-- Byte `b` of a raw tile (0 outside 0..15, which the checks shut out). -/
def rawByte (r : RawTile) (b : Nat) : Byte := r[b]?.getD 0#8

/-- A raw tile with byte `b` replaced. -/
def setRawByte (r : RawTile) (b : Nat) (v : Byte) : RawTile := r.setIfInBounds b v

/-- The palette index at column `x`, row `y` (0 outside 0..7, which the checks shut out). -/
def palAt (p : PalTile) (x y : Nat) : PalIndex :=
  match p[y]? with
  | some row => row[x]?.getD 0#2
  | none => 0#2

/-- A palletized tile with the entry at column `x`, row `y` replaced. -/
def setPalAt (p : PalTile) (x y : Nat) (v : PalIndex) : PalTile :=
  match p[y]? with
  | some row => p.setIfInBounds y (row.setIfInBounds x v)
  | none => p

/-! ### Payload lanes (spec/30_encoding.md R77) -/

/-- `rdata` of a raw tile: byte `b` in bits `[8b+7 : 8b]`. -/
def packTile (r : RawTile) : BitVec 128 :=
  r[15] ++ r[14] ++ r[13] ++ r[12] ++ r[11] ++ r[10] ++ r[9] ++ r[8] ++
    r[7] ++ r[6] ++ r[5] ++ r[4] ++ r[3] ++ r[2] ++ r[1] ++ r[0]

/-- The raw tile of a payload: byte `b` is bits `[8b+7 : 8b]`. -/
def unpackTile (w : BitVec 128) : RawTile :=
  Vector.ofFn fun b => w.extractLsb' (8 * b.val) 8

/-! ### The block a draw writes (spec/43_compositor.md R129) -/

/-- The word of pixel `(DX + x, DY + y)`: `CANVAS_BASE + (DY + y) * CANVAS_WIDTH + (DX + x)`. -/
def State.drawAddress (s : State) (dx dy : BitVec 16) (x y : Nat) : Nat :=
  s.canvasBase.toNat + (dy.toNat + y) * s.canvasWidth.toNat + (dx.toNat + x)

/-- The stored column drawn at canvas column `x`: `7 - x` when mirrored, else `x`. -/
def sourceColumn (mirror : Bool) (x : Nat) : Nat := if mirror then 7 - x else x

/-- The 64 pixels of a tile, rows top to bottom, columns left to right. -/
def blockPixels : List (Nat × Nat) :=
  [0, 1, 2, 3, 4, 5, 6, 7].flatMap fun y => [0, 1, 2, 3, 4, 5, 6, 7].map fun x => (x, y)

/-- The 64 words a draw writes and their values. -/
def State.drawWords (s : State) (g : GridId) (t : Nat) (dx dy : BitVec 16) (mirror : Bool) :
    List (Nat × Color) :=
  blockPixels.map fun p =>
    (s.drawAddress dx dy p.1 p.2, paletteColor (palAt (s.pal g t) (sourceColumn mirror p.1) p.2))

end Sys2Proof.Machine
end

