-- ==== Sys2Proof/Machine/Codec.lean ====
section
/-! DEFINITION. The tile codec, spec/40_codec.md: the functions `Decode` and `Encode` and the commands DECODE_TILE
and ENCODE_TILE. -/

namespace Sys2Proof.Machine

/-- `Decode` (spec/40_codec.md R82). -/
def decodeRaw (r : RawTile) : PalTile :=
  Vector.ofFn fun y => Vector.ofFn fun x =>
    let low := rawByte r y.val &&& maskTable[x]
    let high := rawByte r (8 + y.val) &&& maskTable[x]
    (if low ≠ 0#8 then 1#2 else 0#2) + (if high ≠ 0#8 then 2#2 else 0#2)

/-- One raw byte of `Encode`: from 0x00, OR `MASK[x]` for every column `x` of the row whose index has the plane's
bit (spec/40_codec.md R83). -/
def encodeRow (row : Vector PalIndex 8) (plane : PalIndex) : Byte :=
  [0, 1, 2, 3, 4, 5, 6, 7].foldl
    (fun (acc : Byte) (x : Fin 8) => if row[x] &&& plane ≠ 0#2 then acc ||| maskTable[x] else acc) 0#8

/-- `Encode` (spec/40_codec.md R83): byte `y` from bit 0 of row `y`, byte `8 + y` from bit 1. -/
def encodePal (p : PalTile) : RawTile :=
  #v[encodeRow p[0] 1#2, encodeRow p[1] 1#2, encodeRow p[2] 1#2, encodeRow p[3] 1#2,
     encodeRow p[4] 1#2, encodeRow p[5] 1#2, encodeRow p[6] 1#2, encodeRow p[7] 1#2,
     encodeRow p[0] 2#2, encodeRow p[1] 2#2, encodeRow p[2] 2#2, encodeRow p[3] 2#2,
     encodeRow p[4] 2#2, encodeRow p[5] 2#2, encodeRow p[6] 2#2, encodeRow p[7] 2#2]

/-- DECODE_TILE (spec/40_codec.md R87). -/
def execDecodeTile (g : GridId) (ti : BitVec 16) (s : State) : Host.Outcome State Fault Refusal :=
  runCommand s [s.checkTile g ti] (s.setPal g ti.toNat (decodeRaw (s.raw g ti.toNat))).respondOk

/-- ENCODE_TILE (spec/40_codec.md R88): the old raw bytes do not survive. -/
def execEncodeTile (g : GridId) (ti : BitVec 16) (s : State) : Host.Outcome State Fault Refusal :=
  runCommand s [s.checkTile g ti] (s.setRaw g ti.toNat (encodePal (s.pal g ti.toNat))).respondOk

end Sys2Proof.Machine
end

