-- ==== Sys2Proof/Machine/Compositor.lean ====
section
/-! DEFINITION. The canvas compositor, spec/43_compositor.md: SET_CANVAS_BASE, SET_CANVAS_DIM and DRAW_TILE. -/

namespace Sys2Proof.Machine

/-- SET_CANVAS_BASE (spec/43_compositor.md R126). -/
def execSetCanvasBase (base : BitVec 32) (s : State) : Host.Outcome State Fault Refusal :=
  runCommand s [] ({ s with canvasBase := base } : State).respondOk

/-- SET_CANVAS_DIM (spec/43_compositor.md R127). -/
def execSetCanvasDim (w h : BitVec 16) (s : State) : Host.Outcome State Fault Refusal :=
  runCommand s [] ({ s with canvasWidth := w, canvasHeight := h } : State).respondOk

/-- DRAW_TILE (spec/43_compositor.md R129): the tile before the canvas, and both before any write. -/
def execDrawTile (g : GridId) (ti : BitVec 16) (dx dy : BitVec 16) (mirror : Bool) (s : State) :
    Host.Outcome State Fault Refusal :=
  runCommand s [s.checkTile g ti, s.checkCanvasFits, s.checkBlockFits dx dy]
    ({ s with canvas := s.canvas.writeAll (s.drawWords g ti.toNat dx dy mirror) } : State).respondOk

end Sys2Proof.Machine
end

