-- ==== Sys2Proof/Machine/Grids.lean ====
section
/-! DEFINITION. The grid commands, spec/42_grid.md: construction, the addresser, and access to raw and palletized
tiles. -/

namespace Sys2Proof.Machine

/-- GRID_INIT (spec/42_grid.md R99). -/
def execGridInit (g : GridId) (xc yc : BitVec 16) (s : State) : Host.Outcome State Fault Refusal :=
  runCommand s [s.checkCapacity xc yc] (s.initGrid g xc yc).respondOk

/-- TILE_INDEX (spec/42_grid.md R100): `B * XC + A`. -/
def execTileIndex (g : GridId) (tx ty : BitVec 16) (s : State) : Host.Outcome State Fault Refusal :=
  runCommand s [s.checkTileCoord g tx ty]
    (s.respondResult (BitVec.ofNat 32 (ty.toNat * (s.grid g).xc.toNat + tx.toNat)))

/-- GET_TILE (spec/42_grid.md R101). -/
def execGetTile (g : GridId) (ti : BitVec 16) (s : State) : Host.Outcome State Fault Refusal :=
  runCommand s [s.checkTile g ti] (s.respondData (packTile (s.raw g ti.toNat)))

/-- SET_TILE (spec/42_grid.md R102). -/
def execSetTile (g : GridId) (ti : BitVec 16) (wdata : BitVec 128) (s : State) :
    Host.Outcome State Fault Refusal :=
  runCommand s [s.checkTile g ti] (s.setRaw g ti.toNat (unpackTile wdata)).respondOk

/-- GET_PAL (spec/42_grid.md R103). -/
def execGetPal (g : GridId) (ti : BitVec 16) (x y : BitVec 8) (s : State) :
    Host.Outcome State Fault Refusal :=
  runCommand s [s.checkTile g ti, checkPixel x y]
    (s.respondResult ((palAt (s.pal g ti.toNat) x.toNat y.toNat).setWidth 32))

/-- SET_PAL (spec/42_grid.md R104): `V[1:0]` is stored. -/
def execSetPal (g : GridId) (ti : BitVec 16) (x y v : BitVec 8) (s : State) :
    Host.Outcome State Fault Refusal :=
  runCommand s [s.checkTile g ti, checkPixel x y, checkValue v]
    (s.setPal g ti.toNat (setPalAt (s.pal g ti.toNat) x.toNat y.toNat (v.setWidth 2))).respondOk

/-- GET_RAW_BYTE (spec/42_grid.md R105). -/
def execGetRawByte (g : GridId) (ti : BitVec 16) (bi : BitVec 8) (s : State) :
    Host.Outcome State Fault Refusal :=
  runCommand s [s.checkTile g ti, checkByteIndex bi]
    (s.respondResult ((rawByte (s.raw g ti.toNat) bi.toNat).setWidth 32))

/-- SET_RAW_BYTE_BIT (spec/42_grid.md R106): OR only, no bit is cleared. -/
def execSetRawByteBit (g : GridId) (ti : BitVec 16) (bi bm : BitVec 8) (s : State) :
    Host.Outcome State Fault Refusal :=
  runCommand s [s.checkTile g ti, checkByteIndex bi]
    (s.setRaw g ti.toNat
      (setRawByte (s.raw g ti.toNat) bi.toNat (rawByte (s.raw g ti.toNat) bi.toNat ||| bm))).respondOk

/-- COPY_PAL (spec/42_grid.md R107): the destination is checked first, the source is read whole before the write. -/
def execCopyPal (g : GridId) (ti : BitVec 16) (src : GridId) (sti : BitVec 16) (s : State) :
    Host.Outcome State Fault Refusal :=
  runCommand s [s.checkTile g ti, s.checkTile src sti]
    (s.setPal g ti.toNat (s.pal src sti.toNat)).respondOk

end Sys2Proof.Machine
end

