-- ==== Sys2Proof/Machine/Palette.lean ====
section
/-! DEFINITION. Palette lookup, spec/41_palette.md: PAL_TO_COLOR and COLOR_TO_PAL. -/

namespace Sys2Proof.Machine

/-- `ColorToPalletized` (spec/41_palette.md R92): the index whose colour matches in all 32 bits, or none for
`UnknownColorError`. -/
def colorIndex (c : Color) : Option PalIndex :=
  [0#2, 1#2, 2#2, 3#2].find? fun i => c == paletteColor i

/-- PAL_TO_COLOR (spec/41_palette.md R93). -/
def execPalToColor (idx : BitVec 8) (s : State) : Host.Outcome State Fault Refusal :=
  runCommand s [checkValue idx] (s.respondResult (paletteColor (idx.setWidth 2)))

/-- The response of COLOR_TO_PAL (spec/41_palette.md R94): UNKNOWN_COLOR with the colour is a status, not a fault. -/
def State.respondColorIndex (s : State) (c : Color) : State :=
  match colorIndex c with
  | some i => s.respondResult (i.setWidth 32)
  | none => s.respond .unknownColor c 0#128

/-- COLOR_TO_PAL (spec/41_palette.md R94). -/
def execColorToPal (color : BitVec 32) (s : State) : Host.Outcome State Fault Refusal :=
  runCommand s [] (s.respondColorIndex color)

end Sys2Proof.Machine
end

