-- ==== Sys2Proof/Machine/Dispatch.lean ====
section
/-! DEFINITION. One arm per command: the meaning it calls. -/

namespace Sys2Proof.Machine

def exec (i : Instr) (s : State) : Host.Outcome State Fault Refusal :=
  match i with
  | .decodeTile g ti => Sys2Proof.Machine.execDecodeTile g ti s
  | .encodeTile g ti => Sys2Proof.Machine.execEncodeTile g ti s
  | .palToColor idx => Sys2Proof.Machine.execPalToColor idx s
  | .colorToPal color => Sys2Proof.Machine.execColorToPal color s
  | .gridInit g xc yc => Sys2Proof.Machine.execGridInit g xc yc s
  | .tileIndex g tx ty => Sys2Proof.Machine.execTileIndex g tx ty s
  | .getTile g ti => Sys2Proof.Machine.execGetTile g ti s
  | .setTile g ti wdata => Sys2Proof.Machine.execSetTile g ti wdata s
  | .getPal g ti x y => Sys2Proof.Machine.execGetPal g ti x y s
  | .setPal g ti x y v => Sys2Proof.Machine.execSetPal g ti x y v s
  | .getRawByte g ti bi => Sys2Proof.Machine.execGetRawByte g ti bi s
  | .setRawByteBit g ti bi bm => Sys2Proof.Machine.execSetRawByteBit g ti bi bm s
  | .copyPal g ti src sti => Sys2Proof.Machine.execCopyPal g ti src sti s
  | .setCanvasBase base => Sys2Proof.Machine.execSetCanvasBase base s
  | .setCanvasDim w h => Sys2Proof.Machine.execSetCanvasDim w h s
  | .drawTile g ti dx dy mirror => Sys2Proof.Machine.execDrawTile g ti dx dy mirror s

end Sys2Proof.Machine
end

