-- ==== Sys2Proof/Machine/HostPort.lean ====
section
/-! DEFINITION. The host port: issuing a command (spec/30_encoding.md R70), canvas accesses by the host
(spec/20_memory.md R50) and reset (spec/70_reset_and_hazards.md R179). -/

namespace Sys2Proof.Machine

/-- `Issue(cmd, wdata)` (spec/30_encoding.md R70): the FAULTED test, the two decode checks, then the command. -/
def issue (r : Request) (s : State) : Host.Outcome State Fault Refusal :=
  if s.faulted then .next s.refuseFaulted
  else match decode r with
    | .error e => .next (s.enterFault (causeOfDecodeFault e))
    | .ok i => exec i s

/-- `MemRead(a, 4)` by the host: an unwritten word has no value and the read faults (spec/20_memory.md R50). -/
def hostRead (a : Nat) (s : State) : Host.Outcome State Fault Refusal :=
  if a < s.params.canvasWords then
    match s.canvasWord a with
    | some v => .next { s with answer := some (.memData v) }
    | none => .fault (.canvasWordUnwritten a)
  else .fault (.canvasWordAbsent a)

/-- `MemWrite(a, 4, v)` by the host: the word becomes written (spec/20_memory.md R50). It answers nothing. -/
def hostWrite (a : Nat) (v : Color) (s : State) : Host.Outcome State Fault Refusal :=
  if a < s.params.canvasWords then .next { s with canvas := s.canvas.write a v, answer := none }
  else .fault (.canvasWordAbsent a)

/-- One host action (spec/20_memory.md R57). Canvas accesses work in the halted state too (spec/60_exceptions.md
R167), and reset is accepted in every state (spec/70_reset_and_hazards.md R179). -/
def hostAct (a : HostAction) (s : State) : Host.Outcome State Fault Refusal :=
  match a with
  | .command r => issue r s
  | .memRead a => hostRead a s
  | .memWrite a v => hostWrite a v s
  | .reset => .next s.applyReset

end Sys2Proof.Machine
end

