-- ==== Sys2Proof/Machine/Step.lean ====
section
/-! DEFINITION. One step: the host's next action, wholly at its place in the one total order (spec/20_memory.md R57).
The block fetches nothing (spec/10_state.md R21): a step takes the action from the head of `pending`. -/

namespace Sys2Proof.Machine

/-- With no action left, "the block is idle, and its state is held" (spec/60_exceptions.md R176). -/
def step (s : State) : Host.Outcome State Fault Refusal :=
  match s.pending with
  | [] => .next s
  | a :: rest => hostAct a { s with pending := rest }

/-- The state in which the host's next action is to issue the command whose bits are `w` (numbered as the opcode
table numbers them, the payload above the word): the block has no program counter to fetch at, the next command is
the one the host issues next (spec/10_state.md R21). -/
def State.withFetchWord (s : State) (nbits w : Nat) : State :=
  { s with pending := .command (requestOfBits nbits w) :: s.pending }

end Sys2Proof.Machine
end

