-- ==== Sys2Proof/Machine/Assembler.lean ====
section
/-! DEFINITION. Assembly operands and pseudo-instructions (spec/30_encoding.md R75, R76). Text is taken as already
split into a mnemonic and operand tokens. -/

namespace Sys2Proof.Machine

/-- The operands of R75: a grid `gN`, a number, a payload of bytes with byte 0 first, the word `mirror`. -/
inductive Token where
  | grid (n : Nat)
  | num (n : Nat)
  | bytes (bs : List Nat)
  | mirror
deriving DecidableEq, Repr

/-- A number for a field of `w` bits: "An operand that does not fit its field ... is an assembly error: it is never
truncated into the field" (R75). -/
def fieldOperand (w n : Nat) : Option (BitVec w) :=
  if n < 2 ^ w then some (BitVec.ofNat w n) else none

/-- "A grid is written `g0` or `g1`" (R75). -/
def gridOperand : Nat → Option GridId
  | 0 => some .g0
  | 1 => some .g1
  | _ => none

/-- "A payload is sixteen bytes in brackets, byte 0 first" (R75). -/
def payloadOperand (bs : List Nat) : Option (BitVec 128) :=
  if bs.length = 16 ∧ ∀ b ∈ bs, b < 256 then
    some (packTile (Vector.ofFn fun k => BitVec.ofNat 8 (bs.getD k.val 0)))
  else none

/-- The mnemonic of a row (R68). -/
def mnemonicOf : Op → String
  | .decodeTile => "DECODE_TILE"
  | .encodeTile => "ENCODE_TILE"
  | .palToColor => "PAL_TO_COLOR"
  | .colorToPal => "COLOR_TO_PAL"
  | .gridInit => "GRID_INIT"
  | .tileIndex => "TILE_INDEX"
  | .getTile => "GET_TILE"
  | .setTile => "SET_TILE"
  | .getPal => "GET_PAL"
  | .setPal => "SET_PAL"
  | .getRawByte => "GET_RAW_BYTE"
  | .setRawByteBit => "SET_RAW_BYTE_BIT"
  | .copyPal => "COPY_PAL"
  | .setCanvasBase => "SET_CANVAS_BASE"
  | .setCanvasDim => "SET_CANVAS_DIM"
  | .drawTile => "DRAW_TILE"

/-- The syntax table of R75, a row a line; any other operand list is an assembly error. -/
def assemble (op : Op) (ts : List Token) : Option Instr :=
  match op, ts with
  | .decodeTile, [.grid g, .num ti] => do
    return .decodeTile (← gridOperand g) (← fieldOperand 16 ti)
  | .encodeTile, [.grid g, .num ti] => do
    return .encodeTile (← gridOperand g) (← fieldOperand 16 ti)
  | .palToColor, [.num idx] => do return .palToColor (← fieldOperand 8 idx)
  | .colorToPal, [.num c] => do return .colorToPal (← fieldOperand 32 c)
  | .gridInit, [.grid g, .num xc, .num yc] => do
    return .gridInit (← gridOperand g) (← fieldOperand 16 xc) (← fieldOperand 16 yc)
  | .tileIndex, [.grid g, .num tx, .num ty] => do
    return .tileIndex (← gridOperand g) (← fieldOperand 16 tx) (← fieldOperand 16 ty)
  | .getTile, [.grid g, .num ti] => do
    return .getTile (← gridOperand g) (← fieldOperand 16 ti)
  | .setTile, [.grid g, .num ti, .bytes bs] => do
    return .setTile (← gridOperand g) (← fieldOperand 16 ti) (← payloadOperand bs)
  | .getPal, [.grid g, .num ti, .num x, .num y] => do
    return .getPal (← gridOperand g) (← fieldOperand 16 ti) (← fieldOperand 8 x) (← fieldOperand 8 y)
  | .setPal, [.grid g, .num ti, .num x, .num y, .num v] => do
    return .setPal (← gridOperand g) (← fieldOperand 16 ti) (← fieldOperand 8 x) (← fieldOperand 8 y)
      (← fieldOperand 8 v)
  | .getRawByte, [.grid g, .num ti, .num bi] => do
    return .getRawByte (← gridOperand g) (← fieldOperand 16 ti) (← fieldOperand 8 bi)
  | .setRawByteBit, [.grid g, .num ti, .num bi, .num bm] => do
    return .setRawByteBit (← gridOperand g) (← fieldOperand 16 ti) (← fieldOperand 8 bi)
      (← fieldOperand 8 bm)
  | .copyPal, [.grid g, .num ti, .grid src, .num sti] => do
    return .copyPal (← gridOperand g) (← fieldOperand 16 ti) (← gridOperand src) (← fieldOperand 16 sti)
  | .setCanvasBase, [.num base] => do return .setCanvasBase (← fieldOperand 32 base)
  | .setCanvasDim, [.num w, .num h] => do
    return .setCanvasDim (← fieldOperand 16 w) (← fieldOperand 16 h)
  | .drawTile, [.grid g, .num ti, .num dx, .num dy] => do
    return .drawTile (← gridOperand g) (← fieldOperand 16 ti) (← fieldOperand 16 dx)
      (← fieldOperand 16 dy) false
  | .drawTile, [.grid g, .num ti, .num dx, .num dy, .mirror] => do
    return .drawTile (← gridOperand g) (← fieldOperand 16 ti) (← fieldOperand 16 dx)
      (← fieldOperand 16 dy) true
  | _, _ => none

/-- One assembly line: mnemonic, then operands. -/
def assembleLine (mnemonic : String) (ts : List Token) : Option Instr := do
  assemble (← Op.all.find? fun op => mnemonicOf op == mnemonic) ts

/-! ### Pseudo-instructions (R76) -/

/-- LOAD_TILE, STORE_TILE and SET_CANVAS. -/
inductive Pseudo where
  | loadTile (g : GridId) (ti : BitVec 16) (wdata : BitVec 128)
  | storeTile (g : GridId) (ti : BitVec 16)
  | setCanvas (base : BitVec 32) (w h : BitVec 16)
deriving DecidableEq, Repr

/-- The expansion column of R76. -/
def Pseudo.expand : Pseudo → List Instr
  | .loadTile g ti wdata => [.setTile g ti wdata, .decodeTile g ti]
  | .storeTile g ti => [.encodeTile g ti, .getTile g ti]
  | .setCanvas base w h => [.setCanvasBase base, .setCanvasDim w h]

/-- The latest answer is a response with status OK. -/
def State.respondedOk (s : State) : Bool :=
  match s.answer with
  | some (.response r) => decide (r.status = .ok)
  | some (.memData _) => false
  | none => false

/-- Commands issued in order. "The expansion stops at the first response whose status is not OK" (R76). -/
def issueUntilNotOk : List Instr → State → Host.Outcome State Fault Refusal
  | [], s => .next s
  | i :: is, s =>
    match issue (encode i) s with
    | .next s' => if s'.respondedOk then issueUntilNotOk is s' else .next s'
    | .fault f => .fault f
    | .refused r => .refused r

/-- A pseudo-instruction: not atomic as a whole, each command in it atomic (R76). -/
def runPseudo (p : Pseudo) (s : State) : Host.Outcome State Fault Refusal := issueUntilNotOk p.expand s

end Sys2Proof.Machine
end

