-- ==== Sys2Proof/Machine/HostPipelines.lean ====
section
/-! DEFINITION. The host procedures of spec/44_host_pipelines.md, export and import, over the block's commands.
They are not part of the block (spec/00_scope.md R5): "A model of the whole system uses it as the host's program."
Files and the image codec are outside: what they give or refuse comes in as an argument (log entry 9). -/

namespace Sys2Proof.Machine

/-- The host's error classes (spec/44_host_pipelines.md R155). -/
inductive HostError where
  | io
  | format
  | domain (c : Color)
  | contract
deriving DecidableEq, Repr

/-- An image as the external codec gives or takes it: row-major 32-bit pixels (R157). -/
structure Image where
  width : Nat
  height : Nat
  pixels : List Color
deriving DecidableEq, Repr

/-- A host procedure: it drives the block and ends with a result or with `fail` (R141). -/
abbrev HostProc := ExceptT HostError (StateM State)

/-- A step of the block taken by the host; a stop of the machine ends the procedure. -/
def perform (a : HostAction) : HostProc (Option Answer) := do
  match hostAct a (← get) with
  | .next s => set s; return s.answer
  | .fault _ => throw .contract
  | .refused _ => throw .contract

/-- `issue(...)`: a command and its response (R141). -/
def send (i : Instr) : HostProc Response := do
  match ← perform (.command (encode i)) with
  | some (.response r) => return r
  | some (.memData _) => throw .contract
  | none => throw .contract

/-- `issue(...)` where only OK is expected: "Any response whose status is not OK and not expected ends the procedure
with `fail CONTRACT`" (R141). -/
def sendOk (i : Instr) : HostProc Response := do
  let r ← send i
  if r.status = .ok then return r else throw .contract

/-- `MemRead(a, 4)`. -/
def readWord (a : Nat) : HostProc Color := do
  match ← perform (.memRead a) with
  | some (.memData v) => return v
  | some (.response _) => throw .contract
  | none => throw .contract

/-- `MemWrite(a, 4, v)`. -/
def writeWord (a : Nat) (v : Color) : HostProc Unit := do
  let _ ← perform (.memWrite a v)

/-- A host check: `if ... fail FORMAT`. -/
def checkFormat (good : Bool) : HostProc Unit :=
  if good then return () else throw .format

/-- A number the host puts into a 16-bit field. One that does not fit is an assembly error (spec/30_encoding.md
R75), which ends the procedure as a broken contract (log entry 6). -/
def field16 (n : Nat) : HostProc (BitVec 16) :=
  match fieldOperand 16 n with
  | some v => return v
  | none => throw .contract

/-- The canvas words `base .. base + n - 1`, read in order. -/
def readCanvas (base n : Nat) : HostProc (List Color) :=
  (List.range n).mapM fun k => readWord (base + k)

/-! ### Export (R142-R147) -/

/-- The payload of the 16 bytes of `rom` from `at`. -/
def romPayload (rom : List Byte) (at_ : Nat) : BitVec 128 :=
  packTile (Vector.ofFn fun b => rom.getD (at_ + b.val) 0#8)

/-- `ceil(tileCount / FIXED_TILE_WIDTH)` (R144). -/
def exportRows (tileCount : Nat) : Nat := (tileCount + fixedTileWidth - 1) / fixedTileWidth

/-- The checks of R142, R144 and R145, all before the first command (spec/92_eei_decisions.md D26; log
entry 9). -/
def exportChecks (p : Params) (romLength offset byteLength : Nat) (base : BitVec 32) : Bool :=
  let gh := exportRows (byteLength / 16)
  decide (byteLength ≠ 0) && decide (byteLength % 16 = 0) &&
    decide (offset + byteLength ≤ romLength) &&
    decide (fixedTileWidth * gh ≤ p.maxTiles) &&
    decide (base.toNat + (fixedTileWidth * 8) * (gh * 8) ≤ p.canvasWords)

/-- Grid 0 built and loaded, every tile decoded (R144). -/
def exportLoad (rom : List Byte) (offset tileCount : Nat) : HostProc Unit := do
  let gh := exportRows tileCount
  let _ ← sendOk (.gridInit .g0 (← field16 fixedTileWidth) (← field16 gh))
  (List.range tileCount).forM fun i => do
    let _ ← sendOk (.setTile .g0 (← field16 i) (romPayload rom (offset + 16 * i)))
  (List.range (fixedTileWidth * gh)).forM fun i => do
    let _ ← sendOk (.decodeTile .g0 (← field16 i))

/-- The whole grid drawn in raster order, then read out (R145). -/
def exportRender (base : BitVec 32) (gh : Nat) : HostProc Image := do
  let _ ← sendOk (.setCanvasBase base)
  let _ ← sendOk (.setCanvasDim (← field16 (fixedTileWidth * 8)) (← field16 (gh * 8)))
  (List.range gh).forM fun ty =>
    (List.range fixedTileWidth).forM fun tx => do
      let _ ← sendOk (.drawTile .g0 (← field16 (ty * fixedTileWidth + tx)) (← field16 (tx * 8))
        (← field16 (ty * 8)) false)
  let pixels ← readCanvas base.toNat ((fixedTileWidth * 8) * (gh * 8))
  return { width := fixedTileWidth * 8, height := gh * 8, pixels := pixels }

/-! ### Image files (R147, R157) -/

/-- One call of the external encoder: the file and the finished pixel buffer handed to it (R147). -/
structure EncodedImage where
  file : String
  image : Image
deriving DecidableEq, Repr

/-- Whether an `ImageEncode(path, width, height, pixels)` succeeds (R157), given the calls of this export before it.
The encoder is outside; taking it as such a function is a DESIGN CHOICE (log entry 9), and claims are about every one. -/
abbrev ImageEncoder := List EncodedImage → EncodedImage → Bool

/-- `ImageEncode`: the calls made so far with this one, or `fail IO` (R147, R155). -/
def imageEncode (encoder : ImageEncoder) (done : List EncodedImage) (e : EncodedImage) :
    HostProc (List EncodedImage) :=
  if encoder done e then return done ++ [e] else throw .io

/-! ### Curated composites (R146) -/

/-- `(sourceTileIndex, destX, destY, mirror)`. -/
structure CuratedRecord where
  src : BitVec 16
  dx : BitVec 16
  dy : BitVec 16
  mirror : Bool
deriving DecidableEq, Repr

/-- How a host gathers a layout's tiles into grid 1 (R146). DESIGN CHOICE (log entry 11): the spec writes
`GRID_INIT g1, ...` and `COPY_PAL g1, j, g0, src` and leaves open the dimensions and which `j` a source gets, so both
are the host's, given here; `slots` has the `j` of each record's source, in the order of the records. -/
structure GatherPlan where
  width : BitVec 16
  height : BitVec 16
  slots : List (BitVec 16)
deriving DecidableEq, Repr

/-- The two routes of R146. -/
inductive CuratedRoute where
  /-- Draw from grid 0. -/
  | direct
  /-- Gather into grid 1, draw from there. -/
  | gathered (plan : GatherPlan)
deriving DecidableEq, Repr

/-- One layout of the OPEN parameter `CURATED_LAYOUTS`: "a canvas base, a width, a height, an output file and a list
of records" (R146). -/
structure CuratedLayout where
  base : BitVec 32
  width : BitVec 16
  height : BitVec 16
  file : String
  records : List CuratedRecord
deriving DecidableEq, Repr

/-- The canvas described, filled with `CURATED_FILL`, drawn from grid `g`, and read out (R146). -/
def drawLayout (l : CuratedLayout) (fill : Color) (g : GridId) : HostProc Image := do
  let _ ← sendOk (.setCanvasBase l.base)
  let _ ← sendOk (.setCanvasDim l.width l.height)
  let words := l.width.toNat * l.height.toNat
  (List.range words).forM fun k => writeWord (l.base.toNat + k) fill
  l.records.forM fun r => do
    let _ ← sendOk (.drawTile g r.src r.dx r.dy r.mirror)
  let pixels ← readCanvas l.base.toNat words
  return { width := l.width.toNat, height := l.height.toNat, pixels := pixels }

/-- A plan fits a layout: a slot for every record, and no slot for two different sources (log entry 11). -/
def GatherPlan.fits (plan : GatherPlan) (l : CuratedLayout) : Bool :=
  let copies := l.records.zip plan.slots
  decide (plan.slots.length = l.records.length) &&
    copies.all fun c => copies.all fun d => decide (c.2 = d.2 → c.1.src = d.1.src)

/-- The layout with its records' sources in grid 1. -/
def GatherPlan.redirect (plan : GatherPlan) (l : CuratedLayout) : CuratedLayout :=
  { l with records := List.zipWith (fun r j => { r with src := j }) l.records plan.slots }

/-- A layout's tiles gathered into grid 1 with COPY_PAL, one copy a record in the order of the records (R146; log
entry 11). A plan that does not fit is a broken contract (log entry 6). -/
def gatherTiles (l : CuratedLayout) (plan : GatherPlan) : HostProc Unit := do
  if plan.fits l then
    let _ ← sendOk (.gridInit .g1 plan.width plan.height)
    (l.records.zip plan.slots).forM fun c => do
      let _ ← sendOk (.copyPal .g1 c.2 .g0 c.1.src)
  else throw .contract

/-- One layout rendered by its route (R146). -/
def renderLayout (l : CuratedLayout) (fill : Color) : CuratedRoute → HostProc Image
  | .direct => drawLayout l fill .g0
  | .gathered plan => do
    gatherTiles l plan
    drawLayout (plan.redirect l) fill .g1

/-- `for each layout L in CURATED_LAYOUTS`: rendered and handed to the encoder in order; the first failure ends the
export (R146, R147). -/
def exportCurated (fill : Color) (encoder : ImageEncoder) :
    List (CuratedLayout × CuratedRoute) → List EncodedImage → HostProc (List EncodedImage)
  | [], done => return done
  | (l, route) :: rest, done => do
    let image ← renderLayout l fill route
    let done ← imageEncode encoder done { file := l.file, image := image }
    exportCurated fill encoder rest done

/-! ### The whole export (R142, R147, R158) -/

/-- The inputs of an export beside the ROM buffer (R142), with what R145 and R146 leave to the host: the base `B0`, the
layouts with the route of each, `CURATED_FILL`. -/
structure ExportJob where
  imageFile : String
  offset : Nat
  byteLength : Nat
  base : BitVec 32
  layouts : List (CuratedLayout × CuratedRoute)
  fill : Color
deriving DecidableEq, Repr

/-- `Export` (R142-R147): checks, raster render, raster image, then the curated layouts; the result is every encoder
call in order. It is one operation, and "the first failure aborts the entire export" (R158). `rom = none` stands for a
failed read (R155). It gives no ROM: "Export never writes the ROM" (R147). -/
def exportRom (rom : Option (List Byte)) (job : ExportJob) (encoder : ImageEncoder) :
    HostProc (List EncodedImage) := do
  match rom with
  | none => throw .io
  | some bytes =>
    let s ← get
    checkFormat (exportChecks s.params bytes.length job.offset job.byteLength job.base)
    let tileCount := job.byteLength / 16
    exportLoad bytes job.offset tileCount
    let raster ← exportRender job.base (exportRows tileCount)
    let done ← imageEncode encoder [] { file := job.imageFile, image := raster }
    exportCurated job.fill encoder job.layouts done

/-! ### Import (R148-R154) -/

/-- The tile and position of the pixel at raster position `k` of an image `w` pixels wide (R150): tile index,
column, row. -/
def scatterTarget (w k : Nat) : Nat × Nat × Nat :=
  ((k / w / 8) * (w / 8) + (k % w / 8), k % w % 8, k / w % 8)

/-- One pixel's palette index; an unknown colour ends the import, naming the colour (R149). -/
def mapPixel (c : Color) : HostProc (BitVec 32) := do
  let r ← send (.colorToPal c)
  match r.status with
  | .ok => return r.result
  | .unknownColor => throw (.domain r.result)
  | .fault => throw .contract
  | .faulted => throw .contract

/-- The buffer with `bytes` in place of what stood at `at_` (R151). -/
def splice (rom : List Byte) (at_ : Nat) (bytes : List Byte) : List Byte :=
  rom.take at_ ++ bytes ++ rom.drop (at_ + bytes.length)

/-- The raw tiles spliced in at `offset + t*16`, tile by tile (R151). -/
def spliceTiles (rom : List Byte) (offset : Nat) : List (BitVec 128) → List Byte
  | [] => rom
  | w :: ws => spliceTiles (splice rom offset (unpackTile w).toList) (offset + 16) ws

/-- The checks of R148: multiples of 8, capacity, ROM range (spec/92_eei_decisions.md D26). -/
def importChecks (p : Params) (image : Image) (romLength offset : Nat) : Bool :=
  let tileCount := (image.width / 8) * (image.height / 8)
  decide (image.width % 8 = 0) && decide (image.height % 8 = 0) &&
    decide (tileCount ≤ p.maxTiles) && decide (offset + tileCount * 16 ≤ romLength)

/-- Every tile encoded and read (R151). -/
def encodeAll (tileCount : Nat) : HostProc (List (BitVec 128)) :=
  (List.range tileCount).mapM fun t => do
    let _ ← sendOk (.encodeTile .g0 (← field16 t))
    let r ← sendOk (.getTile .g0 (← field16 t))
    return r.rdata

/-- Import of an image at `offset` (R148-R152): the whole ROM buffer written back. `none` stands for a failed read,
`writeOk = false` for a failed write (R155). Nothing is spliced before every pixel has been mapped (R149). -/
def importImage (image : Option Image) (rom : Option (List Byte)) (offset : Nat) (writeOk : Bool) :
    HostProc (List Byte) := do
  match image, rom with
  | some im, some bytes =>
    let s ← get
    checkFormat (importChecks s.params im bytes.length offset)
    let tx := im.width / 8
    let ty := im.height / 8
    let _ ← sendOk (.gridInit .g0 (← field16 tx) (← field16 ty))
    let idx ← (im.pixels.take (im.width * im.height)).mapM mapPixel
    (List.range (im.width * im.height)).forM fun k => do
      let (t, x, y) := scatterTarget im.width k
      match idx[k]? with
      | some v => do
        let _ ← sendOk (.setPal .g0 (← field16 t) (BitVec.ofNat 8 x) (BitVec.ofNat 8 y) (v.setWidth 8))
      | none => throw .contract
    let tiles ← encodeAll (tx * ty)
    let out := spliceTiles bytes offset tiles
    if writeOk then return out else throw .io
  | some _, none => throw .io
  | none, _ => throw .io

end Sys2Proof.Machine
end

