-- ==== Sys2Proof/WellFormed.lean ====
section
/-! DEFINITION. Which instructions are well formed. Every operand has exactly its field's width by its type, so
nothing an instruction holds can fail to be encoded. What is left to check are the ranges that five 8-bit fields
have beyond their width: "The fields `X`, `Y`, `V`, `IDX` and `BI` are 8 bits wide, although their legal ranges
are 0..7, 0..7, 0..3, 0..3 and 0..15" (spec/30_encoding.md R65). An instruction outside them is still encoded,
decoded and executed: it takes the fault the spec names. -/

namespace Sys2Proof

/-- Every small operand field lies in its legal range (spec/30_encoding.md R65). -/
def Instr.wellFormed : Instr → Bool
  | .decodeTile _ _ => true
  | .encodeTile _ _ => true
  | .palToColor idx => decide (idx.toNat ≤ 3)
  | .colorToPal _ => true
  | .gridInit _ _ _ => true
  | .tileIndex _ _ _ => true
  | .getTile _ _ => true
  | .setTile _ _ _ => true
  | .getPal _ _ x y => decide (x.toNat ≤ 7) && decide (y.toNat ≤ 7)
  | .setPal _ _ x y v => decide (x.toNat ≤ 7) && decide (y.toNat ≤ 7) && decide (v.toNat ≤ 3)
  | .getRawByte _ _ bi => decide (bi.toNat ≤ 15)
  | .setRawByteBit _ _ bi _ => decide (bi.toNat ≤ 15)
  | .copyPal _ _ _ _ => true
  | .setCanvasBase _ => true
  | .setCanvasDim _ _ => true
  | .drawTile _ _ _ _ _ => true

end Sys2Proof
end

