-- ==== Sys2Proof/Safety.lean ====
section
/-! DEFINITION. The terms claims are made in: the invariant every step keeps, and what two states have in common. -/

namespace Sys2Proof.Machine

/-! ### The invariant -/

/-- A grid holds at most `MAX_TILES` tiles (spec/10_state.md R26), its storage is canonical, and slots at or above
`count` hold the zero tile, which no command can reach (R27, spec/93_implementation_defined.md I14). -/
abbrev Grid.Inv (gr : Grid) (maxTiles : Nat) : Prop :=
  gr.count ≤ maxTiles ∧ TileStore.wf gr.tiles = true ∧ Assoc.below gr.tiles gr.count = true

/-- Canvas memory is canonical and has only words that exist (spec/10_state.md R36). -/
abbrev State.CanvasInv (s : State) : Prop :=
  Memory.wf s.canvas = true ∧ Assoc.below s.canvas s.params.canvasWords = true

/-- `FAULT_CAUSE` is 0 while `FAULTED = 0` and one of the codes 1-9 while `FAULTED = 1` (spec/10_state.md R35). -/
abbrev State.FaultInv (s : State) : Prop :=
  (s.faulted = false → s.faultCause = 0#4) ∧
    (s.faulted = true → 1 ≤ s.faultCause.toNat ∧ s.faultCause.toNat ≤ 9)

/-- A response on the port agrees with the fault state: FAULT and FAULTED come with `FAULTED = 1` and the cause as
result, OK and UNKNOWN_COLOR with `FAULTED = 0`, and `rdata` is 0 unless the status is OK (spec/30_encoding.md R66,
R67). -/
def State.answerAgrees (s : State) : Bool :=
  match s.answer with
  | none => true
  | some (.memData _) => true
  | some (.response r) =>
    match r.status with
    | .ok => !s.faulted
    | .unknownColor => !s.faulted && decide (r.rdata = 0#128)
    | .fault => s.faulted && decide (r.result = causeResult s.faultCause) && decide (r.rdata = 0#128)
    | .faulted => s.faulted && decide (r.result = causeResult s.faultCause) && decide (r.rdata = 0#128)

/-- What holds of every state a run from reset can reach, whatever the parameters. -/
abbrev State.Inv (s : State) : Prop :=
  s.params.legal = true ∧ s.grid0.Inv s.params.maxTiles ∧ s.grid1.Inv s.params.maxTiles ∧
    s.CanvasInv ∧ s.FaultInv ∧ s.answerAgrees = true

/-! ### What two states have in common -/

/-- Dimension registers of both grids. -/
abbrev SameDims (s t : State) : Prop :=
  ∀ g, (t.grid g).xc = (s.grid g).xc ∧ (t.grid g).yc = (s.grid g).yc

/-- Every raw tile of both grids. -/
abbrev SameRaw (s t : State) : Prop := ∀ g n, t.raw g n = s.raw g n

/-- Every palletized tile of both grids. -/
abbrev SamePal (s t : State) : Prop := ∀ g n, t.pal g n = s.pal g n

/-- Every raw tile but tile `n` of grid `g`. -/
abbrev SameRawBut (g : GridId) (n : Nat) (s t : State) : Prop :=
  ∀ h k, ¬ (h = g ∧ k = n) → t.raw h k = s.raw h k

/-- Every palletized tile but tile `n` of grid `g`. -/
abbrev SamePalBut (g : GridId) (n : Nat) (s t : State) : Prop :=
  ∀ h k, ¬ (h = g ∧ k = n) → t.pal h k = s.pal h k

/-- The three canvas registers. -/
abbrev SameCanvasRegs (s t : State) : Prop :=
  t.canvasBase = s.canvasBase ∧ t.canvasWidth = s.canvasWidth ∧ t.canvasHeight = s.canvasHeight

/-- Every word of canvas memory, written or unwritten. -/
abbrev SameCanvas (s t : State) : Prop := ∀ a, t.canvasWord a = s.canvasWord a

/-- The fault state. -/
abbrev SameFault (s t : State) : Prop := t.faulted = s.faulted ∧ t.faultCause = s.faultCause

/-- The parameters and the host's later actions. -/
abbrev SameOutside (s t : State) : Prop := t.params = s.params ∧ t.pending = s.pending

/-- Everything but the grids and the answer. -/
abbrev SameOutsideGrids (s t : State) : Prop :=
  SameCanvasRegs s t ∧ SameCanvas s t ∧ SameFault s t ∧ SameOutside s t

/-- Both grids whole. -/
abbrev SameGrids (s t : State) : Prop := SameDims s t ∧ SameRaw s t ∧ SamePal s t

/-- The answer is this response. -/
abbrev Responds (t : State) (status : Status) (result : BitVec 32) (rdata : BitVec 128) : Prop :=
  t.answer = some (.response { status := status, result := result, rdata := rdata })

/-- `s` after `raise Fault(c)`: written out field by field from spec/60_exceptions.md R165. -/
abbrev FaultEntered (s t : State) (code : BitVec 4) : Prop :=
  t = { s with
    faulted := true
    faultCause := code
    answer := some (.response { status := .fault, result := code.setWidth 32, rdata := 0#128 }) }

/-! ### Which tiles a command names -/

/-- The tiles a command names, in the order it checks them; the first is the one it may write (spec/42_grid.md R98,
R107). -/
def tilesNamed : Instr → List (GridId × BitVec 16)
  | .decodeTile g ti => [(g, ti)]
  | .encodeTile g ti => [(g, ti)]
  | .palToColor _ => []
  | .colorToPal _ => []
  | .gridInit _ _ _ => []
  | .tileIndex _ _ _ => []
  | .getTile g ti => [(g, ti)]
  | .setTile g ti _ => [(g, ti)]
  | .getPal g ti _ _ => [(g, ti)]
  | .setPal g ti _ _ _ => [(g, ti)]
  | .getRawByte g ti _ => [(g, ti)]
  | .setRawByteBit g ti _ _ => [(g, ti)]
  | .copyPal g ti src sti => [(g, ti), (src, sti)]
  | .setCanvasBase _ => []
  | .setCanvasDim _ _ => []
  | .drawTile g ti _ _ _ => [(g, ti)]

/-- The nine grid commands of spec/42_grid.md. -/
def gridOps : List Op :=
  [.gridInit, .tileIndex, .getTile, .setTile, .getPal, .setPal, .getRawByte, .setRawByteBit, .copyPal]

/-- The state with another canvas: other canvas registers and other canvas memory. -/
def State.withCanvas (s : State) (base : BitVec 32) (w h : BitVec 16) (m : Memory) : State :=
  { s with canvasBase := base, canvasWidth := w, canvasHeight := h, canvas := m }

/-- `a` is a word of the 8 x 8 block at `(dx, dy)` of the current canvas (spec/43_compositor.md R129). -/
abbrev InBlock (s : State) (dx dy : BitVec 16) (a : Nat) : Prop :=
  ∃ x y, x < 8 ∧ y < 8 ∧ a = s.drawAddress dx dy x y

/-- `a` is a word that command `i` wrote on its way from `s` to `t`: a word of the block of a DRAW_TILE that did not
fault (spec/20_memory.md R49). -/
abbrev DrawsWord (i : Instr) (s t : State) (a : Nat) : Prop :=
  t.faulted = false ∧ ∃ g ti dx dy mirror, i = .drawTile g ti dx dy mirror ∧ InBlock s dx dy a

/-- What DRAW_TILE checks, fulfilled: the tile exists, the canvas lies in canvas memory, the block in the canvas
(spec/42_grid.md R98, spec/43_compositor.md R128). -/
abbrev Drawable (s : State) (g : GridId) (ti dx dy : BitVec 16) : Prop :=
  ti.toNat < s.count g ∧
    s.canvasBase.toNat + s.canvasWidth.toNat * s.canvasHeight.toNat ≤ s.params.canvasWords ∧
    dx.toNat + 8 ≤ s.canvasWidth.toNat ∧ dy.toNat + 8 ≤ s.canvasHeight.toNat

end Sys2Proof.Machine
end

