-- ==== Sys2Proof/Certificates/Slice0/Obligations.lean ====
section
/-! DEFINITION. The statements about IHSIE-CORE for the provers. They hold for all values of the OPEN parameters:
every statement about a state is about every `params`. -/

open Sys2Proof Sys2Proof.Machine

/-! ### Encoding -/

/-- Words written out from the fields of spec/30_encoding.md decode to the commands they stand for, and an illegal
opcode and a reserved bit are refused by name. -/
def Obligations.SpecWordsDecode : Prop :=
  decode ⟨0x1000000000000000#64, 0#128⟩ = .ok (.decodeTile .g0 0#16) ∧
  decode ⟨0x1180000200000000#64, 0#128⟩ = .ok (.encodeTile .g1 2#16) ∧
  decode ⟨0x2000000000000002#64, 0#128⟩ = .ok (.palToColor 2#8) ∧
  decode ⟨0x3100000000020003#64, 0#128⟩ = .ok (.tileIndex .g0 3#16 2#16) ∧
  decode ⟨0x3500000000020707#64, 0#128⟩ = .ok (.setPal .g0 0#16 7#8 7#8 2#8) ∧
  decode ⟨0x3880000200000001#64, 0#128⟩ = .ok (.copyPal .g1 2#16 .g0 1#16) ∧
  decode ⟨0x4220000500080010#64, 0#128⟩ = .ok (.drawTile .g0 5#16 16#16 8#16 true) ∧
  decode ⟨0x12FFFFFFFFFFFFFF#64, 0#128⟩ = .error .illegalOpcode ∧
  decode ⟨0x1020000000000000#64, 0#128⟩ = .error .reservedNonzero

/-- Decoding an encoded instruction gives it back, every operand at every value its field admits. -/
def Obligations.DecodeOfEncodeIsTheInstruction : Prop :=
  ∀ i : Instr, decode (encode i) = .ok i

/-- Where each word has one meaning: encoding what a request decodes to gives its word, and for SET_TILE its
payload. -/
def Obligations.EncodeOfDecodeIsTheWord : Prop :=
  ∀ (r : Request) (i : Instr), decode r = .ok i →
    (encode i).cmd = r.cmd ∧ (i.op = .setTile → (encode i).wdata = r.wdata)

/-- spec/30_encoding.md R68: "a word `cmd` is this command if and only if `(cmd & mask) == match`". -/
def Obligations.WordIsCommandIffMaskMatches : Prop :=
  ∀ (r : Request) (op : Op),
    (∃ i, decode r = .ok i ∧ i.op = op) ↔ r.cmd &&& op.mask = op.pattern

/-- spec/30_encoding.md R72: every word is exactly one of a command (of one row only), a RESERVED_NONZERO fault, an
ILLEGAL_OPCODE fault, and which one it is is decided by its `OPC` and its row's mask. -/
def Obligations.EveryWordIsOneOfThree : Prop :=
  ∀ r : Request,
    ((∃ i, decode r = .ok i) ↔ ∃! op : Op, r.cmd &&& op.mask = op.pattern) ∧
    (decode r = .error .reservedNonzero ↔
      ∃ op : Op, opcField r.cmd = op.opc ∧ r.cmd &&& op.mask ≠ op.pattern) ∧
    (decode r = .error .illegalOpcode ↔ ∀ op : Op, opcField r.cmd ≠ op.opc)

/-- spec/30_encoding.md R71: every `OPC` outside the 16 of the map raises ILLEGAL_OPCODE (cause 1) whatever the
word's other bits hold, and the all-zero word is such a word. -/
def Obligations.IllegalOpcodeFaults : Prop :=
  ∀ (s : State) (cmd : BitVec 64) (wdata : BitVec 128), s.faulted = false →
    (opcField cmd ∉ [0x10#8, 0x11#8, 0x20#8, 0x21#8, 0x30#8, 0x31#8, 0x32#8, 0x33#8, 0x34#8, 0x35#8, 0x36#8,
      0x37#8, 0x38#8, 0x40#8, 0x41#8, 0x42#8] ∨ cmd = 0#64) →
    ∃ t, issue ⟨cmd, wdata⟩ s = .next t ∧ FaultEntered s t 1#4

/-- spec/30_encoding.md R69: a word whose `OPC` is in the map and which has a bit outside its used fields set raises
RESERVED_NONZERO (cause 2) and has no effect besides fault entry; the words the rule lists are such words. -/
def Obligations.ReservedBitFaults : Prop :=
  ∀ (s : State) (r : Request) (op : Op), s.faulted = false → opcField r.cmd = op.opc →
    (r.cmd &&& op.mask ≠ op.pattern ∨
      r.cmd.extractLsb' 48 5 ≠ 0#5 ∨
      (sField r.cmd = true ∧ op ≠ .copyPal) ∨
      (mField r.cmd = true ∧ op ≠ .drawTile) ∨
      (gField r.cmd = true ∧ op ∈ [.palToColor, .colorToPal, .setCanvasBase, .setCanvasDim]) ∨
      (tiField r.cmd ≠ 0#16 ∧
        op ∈ [.palToColor, .colorToPal, .setCanvasBase, .gridInit, .tileIndex, .setCanvasDim]) ∨
      (vField r.cmd ≠ 0#8 ∧ op = .getPal)) →
    ∃ t, issue r s = .next t ∧ FaultEntered s t 2#4

/-- "For every other command, any payload the host supplies is ignored" (a sentence of spec/30_encoding.md R63). -/
def Obligations.PayloadIgnoredButBySetTile : Prop :=
  ∀ (s : State) (cmd : BitVec 64) (w w' : BitVec 128), opcField cmd ≠ 0x33#8 →
    issue ⟨cmd, w⟩ s = issue ⟨cmd, w'⟩ s

/-! ### Responses, fault entry, the halted state -/

/-- spec/60_exceptions.md R166: while halted every word, legal or not, with any payload, is answered FAULTED with the
cause, and no state changes. -/
def Obligations.HaltedRefusesEveryWord : Prop :=
  ∀ (s : State) (r : Request), s.faulted = true →
    issue r s = .next { s with answer := some (.response ⟨.faulted, s.faultCause.setWidth 32, 0#128⟩) }

/-- spec/60_exceptions.md R165: a command that faults has written FAULTED, FAULT_CAUSE and its response, and nothing
else, whatever the word; the cause is one of the codes 1-9 of R161. -/
def Obligations.FaultEntryWritesOnlyFaultState : Prop :=
  ∀ (s t : State) (r : Request), s.faulted = false → issue r s = .next t → t.faulted = true →
    ∃ code : BitVec 4, 1 ≤ code.toNat ∧ code.toNat ≤ 9 ∧ FaultEntered s t code

/-- spec/60_exceptions.md R159: every command is answered, in exactly one of the four response classes, with the
effect on the state its class has, and the next command is accepted after OK and UNKNOWN_COLOR only. -/
def Obligations.EveryCommandAnswersInOneClass : Prop :=
  ∀ (s : State) (r : Request), ∃ t resp, issue r s = .next t ∧ t.answer = some (.response resp) ∧
    (resp.status = .ok → s.faulted = false ∧ t.faulted = false) ∧
    (resp.status = .unknownColor →
      s.faulted = false ∧ t = { s with answer := some (.response resp) }) ∧
    (resp.status = .fault →
      s.faulted = false ∧ ∃ c : Cause, FaultEntered s t c.code) ∧
    (resp.status = .faulted → s.faulted = true ∧ t = { s with answer := some (.response resp) })

/-- spec/60_exceptions.md R160: only COLOR_TO_PAL answers UNKNOWN_COLOR, with the colour as result; it leaves all
state unchanged and the block unfaulted, and the next command executes as it would have without it. -/
def Obligations.UnknownColorIsNoFault : Prop :=
  ∀ (s t : State) (i : Instr) (resp : Response), exec i s = .next t →
    t.answer = some (.response resp) → resp.status = .unknownColor →
    ∃ c, i = .colorToPal c ∧ resp.result = c ∧ s.faulted = false ∧ t.faulted = false ∧
      t = { s with answer := some (.response resp) } ∧ ∀ j, exec j t = exec j s

/-- "The only way out of the halted state is reset" (a sentence of spec/60_exceptions.md R167), and reset is one. The
host's actions come from `pending` by the model's choice (log entry 2). -/
def Obligations.OnlyResetLeavesTheHaltedState : Prop :=
  (∀ s t : State, s.faulted = true → step s = .next t → t.faulted = false →
    ∃ rest, s.pending = .reset :: rest) ∧
  (∀ (s : State) (rest : List HostAction), s.pending = .reset :: rest →
    ∃ t, step s = .next t ∧ t.faulted = false ∧ t.faultCause = 0#4)

/-- spec/42_grid.md R98: a command that names a tile at or above `count` of its grid raises TILE_INDEX_RANGE (cause
3), whatever its other operands; COPY_PAL names two tiles. -/
def Obligations.TileOutOfRangeFaults : Prop :=
  ∀ (s : State) (i : Instr) (g : GridId) (ti : BitVec 16), s.faulted = false →
    (g, ti) ∈ tilesNamed i → (s.grid g).xc.toNat * (s.grid g).yc.toNat ≤ ti.toNat →
    ∃ t, exec i s = .next t ∧ FaultEntered s t 3#4

/-- The range checks on small operands that come after the tile check, in their order: PIXEL_COORD_RANGE (4),
BYTE_INDEX_RANGE (5), VALUE_RANGE (6). -/
def Obligations.SmallOperandOutOfRangeFaults : Prop :=
  ∀ (s : State) (g : GridId) (ti : BitVec 16) (x y v bi bm : BitVec 8), s.faulted = false →
    (ti.toNat < s.count g → (7 < x.toNat ∨ 7 < y.toNat) →
      (∃ t, exec (.getPal g ti x y) s = .next t ∧ FaultEntered s t 4#4) ∧
      (∃ t, exec (.setPal g ti x y v) s = .next t ∧ FaultEntered s t 4#4)) ∧
    (ti.toNat < s.count g → x.toNat ≤ 7 → y.toNat ≤ 7 → 3 < v.toNat →
      ∃ t, exec (.setPal g ti x y v) s = .next t ∧ FaultEntered s t 6#4) ∧
    (ti.toNat < s.count g → 15 < bi.toNat →
      (∃ t, exec (.getRawByte g ti bi) s = .next t ∧ FaultEntered s t 5#4) ∧
      (∃ t, exec (.setRawByteBit g ti bi bm) s = .next t ∧ FaultEntered s t 5#4)) ∧
    (3 < v.toNat → ∃ t, exec (.palToColor v) s = .next t ∧ FaultEntered s t 6#4)

/-- GRID_INIT above `MAX_TILES` raises GRID_CAPACITY (7); TILE_INDEX with a coordinate outside the grid raises
TILE_COORD_RANGE (8). -/
def Obligations.GridSizeAndCoordinateFaults : Prop :=
  ∀ (s : State) (g : GridId) (a b : BitVec 16), s.faulted = false →
    (s.params.maxTiles < a.toNat * b.toNat →
      ∃ t, exec (.gridInit g a b) s = .next t ∧ FaultEntered s t 7#4) ∧
    ((s.grid g).xc.toNat ≤ a.toNat ∨ (s.grid g).yc.toNat ≤ b.toNat →
      ∃ t, exec (.tileIndex g a b) s = .next t ∧ FaultEntered s t 8#4)

/-- spec/43_compositor.md R128: a draw of a tile that exists raises CANVAS_BOUNDS (cause 9) before writing any pixel
when the current canvas does not lie in canvas memory or the block does not lie in the canvas, and otherwise not. -/
def Obligations.CanvasCheckDecidesDraw : Prop :=
  ∀ (s : State) (g : GridId) (ti dx dy : BitVec 16) (mirror : Bool), s.faulted = false →
    ti.toNat < s.count g →
    ((s.params.canvasWords < s.canvasBase.toNat + s.canvasWidth.toNat * s.canvasHeight.toNat ∨
        s.canvasWidth.toNat < dx.toNat + 8 ∨ s.canvasHeight.toNat < dy.toNat + 8) →
      ∃ t, exec (.drawTile g ti dx dy mirror) s = .next t ∧ FaultEntered s t 9#4) ∧
    (Drawable s g ti dx dy →
      ∃ t, exec (.drawTile g ti dx dy mirror) s = .next t ∧ t.faulted = false)

/-- An instruction with a small operand outside its legal range (what the model calls ill-formed, log entry 7) never
completes: it takes TILE_INDEX_RANGE,
PIXEL_COORD_RANGE, BYTE_INDEX_RANGE or VALUE_RANGE (causes 3-6), never a reserved-bit fault. -/
def Obligations.IllFormedInstructionAlwaysFaults : Prop :=
  ∀ (s : State) (i : Instr), s.faulted = false → i.wellFormed = false →
    ∃ t, ∃ code : BitVec 4, exec i s = .next t ∧ FaultEntered s t code ∧ code ∈ [3#4, 4#4, 5#4, 6#4]

/-! ### The codec -/

/-- spec/40_codec.md R81: the index of pixel `(x, y)` is the low plane's bit plus twice the high plane's, with column
`x` in bit `7 - x`, for the decoder and for the encoder. -/
def Obligations.PaletteIndexIsLowPlusTwiceHigh : Prop :=
  (∀ (r : RawTile) (x y : Nat), x < 8 → y < 8 →
    (palAt (decodeRaw r) x y).toNat =
      ((rawByte r y).getLsbD (7 - x)).toNat + 2 * ((rawByte r (8 + y)).getLsbD (7 - x)).toNat) ∧
  (∀ (p : PalTile) (x y : Nat), x < 8 → y < 8 →
    (palAt p x y).toNat = ((rawByte (encodePal p) y).getLsbD (7 - x)).toNat +
      2 * ((rawByte (encodePal p) (8 + y)).getLsbD (7 - x)).toNat)

/-- spec/40_codec.md R84: `Decode(Encode(p)) == p`. -/
def Obligations.DecodeAfterEncodeOfTile : Prop := ∀ p : PalTile, decodeRaw (encodePal p) = p

/-- spec/40_codec.md R85: `Encode(Decode(r)) == r`. -/
def Obligations.EncodeAfterDecodeOfTile : Prop := ∀ r : RawTile, encodePal (decodeRaw r) = r

/-- spec/40_codec.md R86: row `y` of `Decode(r)` depends only on bytes `y` and `8 + y`. -/
def Obligations.DecodedRowDependsOnItsTwoBytes : Prop :=
  ∀ (r q : RawTile) (y : Nat), y < 8 → rawByte r y = rawByte q y → rawByte r (8 + y) = rawByte q (8 + y) →
    ∀ x, x < 8 → palAt (decodeRaw r) x y = palAt (decodeRaw q) x y

/-- The effect of DECODE_TILE and its frame: the 64 entries of the tile named, and nothing else. -/
def Obligations.DecodeTileResult : Prop :=
  ∀ (s : State) (g : GridId) (ti : BitVec 16), s.faulted = false → ti.toNat < s.count g →
    ∃ t, exec (.decodeTile g ti) s = .next t ∧ Responds t .ok 0#32 0#128 ∧
      t.pal g ti.toNat = decodeRaw (s.raw g ti.toNat) ∧
      SamePalBut g ti.toNat s t ∧ SameRaw s t ∧ SameDims s t ∧ SameOutsideGrids s t

/-- The effect of ENCODE_TILE and its frame: the 16 bytes of the tile named replaced whole, and nothing else. -/
def Obligations.EncodeTileResult : Prop :=
  ∀ (s : State) (g : GridId) (ti : BitVec 16), s.faulted = false → ti.toNat < s.count g →
    ∃ t, exec (.encodeTile g ti) s = .next t ∧ Responds t .ok 0#32 0#128 ∧
      t.raw g ti.toNat = encodePal (s.pal g ti.toNat) ∧
      SameRawBut g ti.toNat s t ∧ SamePal s t ∧ SameDims s t ∧ SameOutsideGrids s t

/-- spec/40_codec.md R90: encoding a tile and then decoding it leaves its palletized form as it was, and decoding and
then encoding leaves its raw form as it was. -/
def Obligations.CodecRoundTripThroughTheGrid : Prop :=
  ∀ (s : State) (g : GridId) (ti : BitVec 16), s.faulted = false → ti.toNat < s.count g →
    (∃ t u, exec (.encodeTile g ti) s = .next t ∧ exec (.decodeTile g ti) t = .next u ∧
      u.pal g ti.toNat = s.pal g ti.toNat) ∧
    (∃ t u, exec (.decodeTile g ti) s = .next t ∧ exec (.encodeTile g ti) t = .next u ∧
      u.raw g ti.toNat = s.raw g ti.toNat)

/-! ### The palette -/

/-- spec/41_palette.md R91: PAL_TO_COLOR answers the four colours for the four indices and faults VALUE_RANGE (6) for
every other index; the state is otherwise unchanged. -/
def Obligations.PalToColorAnswersTheColour : Prop :=
  ∀ s : State, s.faulted = false →
    (∀ q ∈ [(0#8, 0xFF505050#32), (1#8, 0xFFE0A0C0#32), (2#8, 0xFF000000#32), (3#8, 0xFF60A0C0#32)],
      exec (.palToColor q.1) s = .next { s with answer := some (.response ⟨.ok, q.2, 0#128⟩) }) ∧
    (∀ idx : BitVec 8, idx ∉ [0#8, 1#8, 2#8, 3#8] →
      ∃ t, exec (.palToColor idx) s = .next t ∧ FaultEntered s t 6#4)

/-- COLOR_TO_PAL completes on the four colours with their indices; the state is otherwise unchanged. -/
def Obligations.ColorToPalAnswersTheIndex : Prop :=
  ∀ s : State, s.faulted = false →
    ∀ q ∈ [(0#32, 0xFF505050#32), (1#32, 0xFFE0A0C0#32), (2#32, 0xFF000000#32), (3#32, 0xFF60A0C0#32)],
      exec (.colorToPal q.2) s = .next { s with answer := some (.response ⟨.ok, q.1, 0#128⟩) }

/-- spec/41_palette.md R96: every other 32-bit value is answered UNKNOWN_COLOR with the value. -/
def Obligations.OtherColoursAreUnknown : Prop :=
  ∀ (s : State) (c : BitVec 32), s.faulted = false →
    c ∉ [0xFF505050#32, 0xFFE0A0C0#32, 0xFF000000#32, 0xFF60A0C0#32] →
    exec (.colorToPal c) s = .next { s with answer := some (.response ⟨.unknownColor, c, 0#128⟩) }

/-- spec/41_palette.md R95: looking up the colour of an index and then the index of that colour gives the index, for
the two functions and for PAL_TO_COLOR followed by COLOR_TO_PAL of its result. -/
def Obligations.PaletteRoundTrip : Prop :=
  (∀ i : PalIndex, colorIndex (paletteColor i) = some i) ∧
  ∀ (s : State) (i : BitVec 8), s.faulted = false → i.toNat ≤ 3 →
    ∃ t c u, exec (.palToColor i) s = .next t ∧ Responds t .ok c 0#128 ∧
      exec (.colorToPal c) t = .next u ∧ Responds u .ok (i.setWidth 32) 0#128

/-! ### The grid -/

/-- The effect of GRID_INIT and its frame: the dimensions set, every raw byte and palette entry of every slot zero,
the other grid and everything else unchanged. -/
def Obligations.GridInitResult : Prop :=
  ∀ (s : State) (g : GridId) (xc yc : BitVec 16), s.faulted = false →
    xc.toNat * yc.toNat ≤ s.params.maxTiles →
    ∃ t, exec (.gridInit g xc yc) s = .next t ∧ Responds t .ok 0#32 0#128 ∧
      (t.grid g).xc = xc ∧ (t.grid g).yc = yc ∧
      (∀ n b, b < 16 → rawByte (t.raw g n) b = 0#8) ∧
      (∀ n x y, x < 8 → y < 8 → palAt (t.pal g n) x y = 0#2) ∧
      (∀ h, h ≠ g → t.grid h = s.grid h) ∧ SameOutsideGrids s t

/-- The answer of TILE_INDEX: `tileY * XC + tileX`, exact; the state is otherwise unchanged. -/
def Obligations.TileIndexResult : Prop :=
  ∀ (s : State) (g : GridId) (tx ty : BitVec 16), s.faulted = false →
    tx.toNat < (s.grid g).xc.toNat → ty.toNat < (s.grid g).yc.toNat →
    ∃ r : BitVec 32, r.toNat = ty.toNat * (s.grid g).xc.toNat + tx.toNat ∧
      exec (.tileIndex g tx ty) s = .next { s with answer := some (.response ⟨.ok, r, 0#128⟩) }

/-- Raster order: TILE_INDEX answers `n` for the coordinates `(n mod XC, n div XC)` of every tile `n < count`. -/
def Obligations.TileIndexIsRasterOrder : Prop :=
  ∀ (s : State) (g : GridId) (n : Nat), s.faulted = false → n < s.count g →
    ∃ r : BitVec 32, r.toNat = n ∧
      exec (.tileIndex g (BitVec.ofNat 16 (n % (s.grid g).xc.toNat)) (BitVec.ofNat 16 (n / (s.grid g).xc.toNat))) s =
        .next { s with answer := some (.response ⟨.ok, r, 0#128⟩) }

/-- The answer of GET_TILE: byte `b` in bits `[8b+7:8b]` of `rdata`; the state is otherwise unchanged. -/
def Obligations.GetTileResult : Prop :=
  ∀ (s : State) (g : GridId) (ti : BitVec 16), s.faulted = false → ti.toNat < s.count g →
    ∃ d : BitVec 128, (∀ b, b < 16 → d.extractLsb' (8 * b) 8 = rawByte (s.raw g ti.toNat) b) ∧
      exec (.getTile g ti) s = .next { s with answer := some (.response ⟨.ok, 0#32, d⟩) }

/-- The effect of SET_TILE and its frame: byte `b` of the tile named is bits `[8b+7:8b]` of the payload, its
palletized form and everything else unchanged. -/
def Obligations.SetTileResult : Prop :=
  ∀ (s : State) (g : GridId) (ti : BitVec 16) (wdata : BitVec 128), s.faulted = false →
    ti.toNat < s.count g →
    ∃ t, exec (.setTile g ti wdata) s = .next t ∧ Responds t .ok 0#32 0#128 ∧
      (∀ b, b < 16 → rawByte (t.raw g ti.toNat) b = wdata.extractLsb' (8 * b) 8) ∧
      SameRawBut g ti.toNat s t ∧ SamePal s t ∧ SameDims s t ∧ SameOutsideGrids s t

/-- The answers of GET_PAL and GET_RAW_BYTE: the entry at column `x`, row `y`, and the byte, zero-extended; the state
is otherwise unchanged. -/
def Obligations.GetPalAndGetRawByteResults : Prop :=
  ∀ (s : State) (g : GridId) (ti : BitVec 16) (x y bi : BitVec 8), s.faulted = false →
    ti.toNat < s.count g →
    (x.toNat ≤ 7 → y.toNat ≤ 7 → exec (.getPal g ti x y) s = .next { s with
      answer := some (.response ⟨.ok, (palAt (s.pal g ti.toNat) x.toNat y.toNat).setWidth 32, 0#128⟩) }) ∧
    (bi.toNat ≤ 15 → exec (.getRawByte g ti bi) s = .next { s with
      answer := some (.response ⟨.ok, (rawByte (s.raw g ti.toNat) bi.toNat).setWidth 32, 0#128⟩) })

/-- The effect of SET_PAL and its frame: one entry of the tile named, everything else unchanged. -/
def Obligations.SetPalResult : Prop :=
  ∀ (s : State) (g : GridId) (ti : BitVec 16) (x y v : BitVec 8), s.faulted = false →
    ti.toNat < s.count g → x.toNat ≤ 7 → y.toNat ≤ 7 → v.toNat ≤ 3 →
    ∃ t, exec (.setPal g ti x y v) s = .next t ∧ Responds t .ok 0#32 0#128 ∧
      (palAt (t.pal g ti.toNat) x.toNat y.toNat).toNat = v.toNat ∧
      (∀ x' y', ¬ (x' = x.toNat ∧ y' = y.toNat) →
        palAt (t.pal g ti.toNat) x' y' = palAt (s.pal g ti.toNat) x' y') ∧
      SamePalBut g ti.toNat s t ∧ SameRaw s t ∧ SameDims s t ∧ SameOutsideGrids s t

/-- The effect of SET_RAW_BYTE_BIT and its frame: one byte of the tile named becomes itself OR the mask, so that no
bit is ever cleared; everything else unchanged. -/
def Obligations.SetRawByteBitResult : Prop :=
  ∀ (s : State) (g : GridId) (ti : BitVec 16) (bi bm : BitVec 8), s.faulted = false →
    ti.toNat < s.count g → bi.toNat ≤ 15 →
    ∃ t, exec (.setRawByteBit g ti bi bm) s = .next t ∧ Responds t .ok 0#32 0#128 ∧
      (∀ k, (rawByte (t.raw g ti.toNat) bi.toNat).getLsbD k =
        ((rawByte (s.raw g ti.toNat) bi.toNat).getLsbD k || bm.getLsbD k)) ∧
      (∀ b, b ≠ bi.toNat → rawByte (t.raw g ti.toNat) b = rawByte (s.raw g ti.toNat) b) ∧
      SameRawBut g ti.toNat s t ∧ SamePal s t ∧ SameDims s t ∧ SameOutsideGrids s t

/-- The effect of COPY_PAL and its frame, within one grid or across, onto itself or not: the destination's palletized
form becomes the source's as it was before, everything else unchanged. -/
def Obligations.CopyPalResult : Prop :=
  ∀ (s : State) (g src : GridId) (ti sti : BitVec 16), s.faulted = false →
    ti.toNat < s.count g → sti.toNat < s.count src →
    ∃ t, exec (.copyPal g ti src sti) s = .next t ∧ Responds t .ok 0#32 0#128 ∧
      t.pal g ti.toNat = s.pal src sti.toNat ∧
      SamePalBut g ti.toNat s t ∧ SameRaw s t ∧ SameDims s t ∧ SameOutsideGrids s t

/-- spec/42_grid.md R108: COPY_PAL changes neither grid's raw bytes nor any tile but the destination's palletized
form, and every grid command other than GRID_INIT writes at most the one tile it names: of both grids and the canvas,
nothing else changes. -/
def Obligations.GridIsolation : Prop :=
  (∀ (s t : State) (g src : GridId) (ti sti : BitVec 16), exec (.copyPal g ti src sti) s = .next t →
    SameRaw s t ∧ SamePalBut g ti.toNat s t ∧ SameDims s t ∧ SameCanvasRegs s t ∧ SameCanvas s t) ∧
  (∀ (s t : State) (i : Instr), i.op ∈ gridOps → i.op ≠ .gridInit → exec i s = .next t →
    SameDims s t ∧ SameCanvasRegs s t ∧ SameCanvas s t ∧
    ∀ h k, (∀ g ti, (tilesNamed i).head? = some (g, ti) → ¬ (h = g ∧ k = ti.toNat)) →
      t.raw h k = s.raw h k ∧ t.pal h k = s.pal h k)

/-- spec/42_grid.md R109: no grid command reads or writes canvas memory or the canvas registers (with any other
canvas it does the same and leaves that canvas as it was), and GRID_INIT on one grid does not change the other. -/
def Obligations.GridCommandsIgnoreTheCanvas : Prop :=
  (∀ (s t : State) (i : Instr) (base : BitVec 32) (w h : BitVec 16) (m : Memory), i.op ∈ gridOps →
    exec i s = .next t → exec i (s.withCanvas base w h m) = .next (t.withCanvas base w h m)) ∧
  (∀ (s t : State) (g h : GridId) (xc yc : BitVec 16), exec (.gridInit g xc yc) s = .next t → h ≠ g →
    t.grid h = s.grid h)

/-- Which commands write which form of a tile: only SET_TILE, SET_RAW_BYTE_BIT, ENCODE_TILE and GRID_INIT write raw
bytes, only SET_PAL, COPY_PAL, DECODE_TILE and GRID_INIT write palletized entries. -/
def Obligations.RawAndPalletizedWritersAreSeparate : Prop :=
  ∀ (s t : State) (i : Instr), exec i s = .next t →
    (i.op ∉ [.setTile, .setRawByteBit, .encodeTile, .gridInit] → SameRaw s t) ∧
    (i.op ∉ [.setPal, .copyPal, .decodeTile, .gridInit] → SamePal s t)

/-! ### The compositor -/

/-- SET_CANVAS_BASE and SET_CANVAS_DIM complete on every operand and write their registers only. -/
def Obligations.CanvasRegisterWriteResults : Prop :=
  ∀ (s : State) (base : BitVec 32) (w h : BitVec 16), s.faulted = false →
    exec (.setCanvasBase base) s = .next { s with
      canvasBase := base, answer := some (.response ⟨.ok, 0#32, 0#128⟩) } ∧
    exec (.setCanvasDim w h) s = .next { s with
      canvasWidth := w, canvasHeight := h, answer := some (.response ⟨.ok, 0#32, 0#128⟩) }

/-- The effect of DRAW_TILE and its frame: word `CANVAS_BASE + (DY + y)*CANVAS_WIDTH + (DX + x)` holds the colour of
the entry at column `x` (`7 - x` when mirrored), row `y`; every other word, the grids and all registers unchanged. -/
def Obligations.DrawTileResult : Prop :=
  ∀ (s : State) (g : GridId) (ti dx dy : BitVec 16) (mirror : Bool), s.faulted = false →
    Drawable s g ti dx dy →
    ∃ t, exec (.drawTile g ti dx dy mirror) s = .next t ∧ Responds t .ok 0#32 0#128 ∧
      (∀ x y, x < 8 → y < 8 →
        t.canvasWord (s.canvasBase.toNat + (dy.toNat + y) * s.canvasWidth.toNat + (dx.toNat + x)) =
          some (paletteColor (palAt (s.pal g ti.toNat) (if mirror then 7 - x else x) y))) ∧
      (∀ a, ¬ InBlock s dx dy a → t.canvasWord a = s.canvasWord a) ∧
      SameGrids s t ∧ SameCanvasRegs s t ∧ SameFault s t ∧ SameOutside s t

/-- spec/43_compositor.md R132: the 64 words of a block that fits its canvas are distinct. -/
def Obligations.BlockWordsAreDistinct : Prop :=
  ∀ (s : State) (dx dy : BitVec 16) (x y x' y' : Nat), x < 8 → y < 8 → x' < 8 → y' < 8 →
    dx.toNat + 8 ≤ s.canvasWidth.toNat → s.drawAddress dx dy x y = s.drawAddress dx dy x' y' →
    x = x' ∧ y = y'

/-- spec/43_compositor.md R130: mirroring reverses the columns of one draw and writes nothing back into the grid, so
that the same tile drawn later without it is drawn unmirrored. -/
def Obligations.MirroringIsNotStored : Prop :=
  ∀ (s : State) (g : GridId) (ti dx dy : BitVec 16), s.faulted = false → Drawable s g ti dx dy →
    ∃ t u v, exec (.drawTile g ti dx dy false) s = .next t ∧ exec (.drawTile g ti dx dy true) s = .next u ∧
      exec (.drawTile g ti dx dy false) u = .next v ∧ SameGrids s u ∧
      ∀ x y, x < 8 → y < 8 →
        u.canvasWord (s.drawAddress dx dy x y) = t.canvasWord (s.drawAddress dx dy (7 - x) y) ∧
        v.canvasWord (s.drawAddress dx dy x y) = t.canvasWord (s.drawAddress dx dy x y)

/-- spec/43_compositor.md R133: of two draws on one canvas, each word holds what the later command wrote there, with
no index transparent: index 0 writes 0xFF505050. -/
def Obligations.LaterDrawWins : Prop :=
  ∀ (s : State) (g h : GridId) (ti tj dx dy ex ey : BitVec 16) (m n : Bool), s.faulted = false →
    Drawable s g ti dx dy → Drawable s h tj ex ey →
    ∃ t u, exec (.drawTile g ti dx dy m) s = .next t ∧ exec (.drawTile h tj ex ey n) t = .next u ∧
      (∀ x y, x < 8 → y < 8 →
        u.canvasWord (s.drawAddress ex ey x y) =
          some (paletteColor (palAt (s.pal h tj.toNat) (if n then 7 - x else x) y))) ∧
      (∀ a, ¬ InBlock s ex ey a → u.canvasWord a = t.canvasWord a) ∧
      paletteColor 0#2 = 0xFF505050#32

/-- spec/20_memory.md R49: no command reads canvas memory: with any other contents `m` it answers the same, does the
same to everything else, leaves in each word it draws the same value, and leaves every other word as `m` has it. Only a
DRAW_TILE that does not fault writes canvas memory: exactly 64 words, one block of the current canvas. -/
def Obligations.BlockNeverReadsCanvasMemory : Prop :=
  ∀ (s t : State) (i : Instr), exec i s = .next t →
    (∀ m : Memory, ∃ m' : Memory, exec i { s with canvas := m } = .next { t with canvas := m' } ∧
      ∀ a, (DrawsWord i s t a → m'.read a = t.canvasWord a) ∧ (¬ DrawsWord i s t a → m'.read a = m.read a)) ∧
    (i.op ≠ .drawTile ∨ t.faulted = true → t.canvas = s.canvas) ∧
    (∀ g ti dx dy mirror, i = .drawTile g ti dx dy mirror → t.faulted = false →
      ∃ ws : List Nat, ws.length = 64 ∧ ws.Nodup ∧ (∀ a, a ∈ ws ↔ InBlock s dx dy a) ∧
        (∀ a ∈ ws, ∃ i : PalIndex, t.canvasWord a = some (paletteColor i)) ∧
        (∀ a, a ∉ ws → t.canvasWord a = s.canvasWord a))

/-! ### Rules about every command -/

/-- Every command that succeeds is idempotent, in the state it leaves and in its response; one that faults is answered
FAULTED the second time (sentences of spec/20_memory.md R54; that `exec` itself tests FAULTED is log entry 7). -/
def Obligations.CommandsAreIdempotent : Prop :=
  ∀ (s t : State) (i : Instr), exec i s = .next t →
    (t.faulted = false → exec i t = .next t) ∧
    (t.faulted = true → ∃ u, exec i t = .next u ∧ Responds u .faulted (t.faultCause.setWidth 32) 0#128)

/-! ### The host's side -/

/-- spec/10_state.md R37: the state after reset, whether at power-up (for every value of the parameters) or applied by
the host; canvas memory is unwritten at power-up and unchanged by a reset; the two tables are constants. -/
def Obligations.ResetSetsTheResetState : Prop :=
  (∀ t : State, (∃ p, t = State.resetWith p) ∨ (∃ s, hostAct .reset s = .next t) →
    (∀ g, (t.grid g).xc = 0#16 ∧ (t.grid g).yc = 0#16 ∧ t.count g = 0) ∧
    (∀ g n b, b < 16 → rawByte (t.raw g n) b = 0#8) ∧
    (∀ g n x y, x < 8 → y < 8 → palAt (t.pal g n) x y = 0#2) ∧
    t.canvasBase = 0#32 ∧ t.canvasWidth = 0#16 ∧ t.canvasHeight = 0#16 ∧
    t.faulted = false ∧ t.faultCause = 0#4) ∧
  (∀ p a, (State.resetWith p).canvasWord a = none) ∧
  (∀ s t : State, hostAct .reset s = .next t → SameCanvas s t) ∧
  (∀ x : Fin 8, maskTable[x] = 0x80#8 >>> x.val) ∧
  paletteTable = #v[0xFF505050#32, 0xFFE0A0C0#32, 0xFF000000#32, 0xFF60A0C0#32]

/-- Reset is accepted in every state, halted or not, clears the block whole and leaves canvas memory, the parameters and
the host's later actions as they were. That a step takes the reset from `pending` is the model's choice (log entry 2). -/
def Obligations.ResetIsAcceptedInEveryState : Prop :=
  ∀ (s : State) (rest : List HostAction), s.pending = .reset :: rest →
    ∃ t, step s = .next t ∧ (∀ g, t.grid g = Grid.reset) ∧
      t.canvasBase = 0#32 ∧ t.canvasWidth = 0#16 ∧ t.canvasHeight = 0#16 ∧
      t.faulted = false ∧ t.faultCause = 0#4 ∧ SameCanvas s t ∧
      t.params = s.params ∧ t.pending = rest

/-- After spec/20_memory.md R50: the host writes and reads any canvas word that exists, halted or not; a write makes the
word written and changes no other, a read gives the value last written, a read of an unwritten word faults. -/
def Obligations.HostCanvasAccess : Prop :=
  ∀ (s : State) (a : Nat) (v : Color), a < s.params.canvasWords →
    (∃ t u, hostAct (.memWrite a v) s = .next t ∧ t.canvasWord a = some v ∧
      (∀ b, b ≠ a → t.canvasWord b = s.canvasWord b) ∧ SameGrids s t ∧ SameCanvasRegs s t ∧ SameFault s t ∧
      SameOutside s t ∧ hostAct (.memRead a) t = .next u ∧ u.answer = some (.memData v)) ∧
    (∀ w, s.canvasWord a = some w →
      hostAct (.memRead a) s = .next { s with answer := some (.memData w) }) ∧
    (s.canvasWord a = none → hostAct (.memRead a) s = .fault (.canvasWordUnwritten a))

/-- A step takes the host's next action: a request that decodes is its instruction's `exec` in the state with that
action taken off, and with no action left the block holds its state. `pending` is the model's choice (log entry 2). -/
def Obligations.StepRunsTheDecodedInstruction : Prop :=
  (∀ (s : State) (r : Request) (rest : List HostAction) (i : Instr), s.pending = .command r :: rest →
    decode r = .ok i → step s = exec i { s with pending := rest }) ∧
  (∀ s : State, s.pending = [] → step s = .next s)

/-- The invariant is kept by every step from every state that meets it, for all parameters: grids within MAX_TILES,
storage canonical and zero above `count`, canvas words only where they exist, a legal cause, a response that agrees
with the fault state. Steps, the kept answer and the canonical forms are the model's choice (log entries 2, 3, 5). -/
def Obligations.StepKeepsTheInvariant : Prop :=
  ∀ s t : State, s.Inv → step s = .next t → t.Inv

/-- The reset state meets the invariant, for all legal parameters and for those of `State.reset`, which are the model's
choice (log entry 1). -/
def Obligations.ResetMeetsTheInvariant : Prop :=
  (∀ p : Params, p.legal = true → (State.resetWith p).Inv) ∧ State.reset.Inv

/-- The import's splice changes only the bytes of its tiles: with `n` tiles that fit, every byte outside
`[offset, offset + n*16)` is as it was and the length is unchanged. -/
def Obligations.SpliceKeepsOtherBytes : Prop :=
  ∀ (rom : List Byte) (offset : Nat) (tiles : List (BitVec 128)), offset + tiles.length * 16 ≤ rom.length →
    (spliceTiles rom offset tiles).length = rom.length ∧
    (∀ k, k < offset ∨ offset + tiles.length * 16 ≤ k → (spliceTiles rom offset tiles)[k]? = rom[k]?) ∧
    (∀ j b w, tiles[j]? = some w → b < 16 →
      (spliceTiles rom offset tiles)[offset + j * 16 + b]? = some (w.extractLsb' (8 * b) 8))

/-- spec/44_host_pipelines.md R154: an import that succeeds changes only the bytes `[offset, offset + tileCount*16)` of
the ROM, whatever state the block was in. -/
def Obligations.ImportKeepsOtherBytes : Prop :=
  ∀ (s t : State) (im : Image) (rom out : List Byte) (offset : Nat) (writeOk : Bool),
    (importImage (some im) (some rom) offset writeOk).run.run s = (.ok out, t) →
    out.length = rom.length ∧
    ∀ k, k < offset ∨ offset + (im.width / 8) * (im.height / 8) * 16 ≤ k → out[k]? = rom[k]?

/-- After spec/44_host_pipelines.md R142 and R155: an export whose ROM was not read ends with IO, one whose byte length
is zero or no multiple of 16, or whose range runs past the end of the ROM, ends with FORMAT, in both cases before any
command: the block is as it was and nothing reaches the encoder. -/
def Obligations.ExportRefusesBadRange : Prop :=
  ∀ (s : State) (rom : List Byte) (job : ExportJob) (encoder : ImageEncoder),
    (exportRom none job encoder).run.run s = (.error .io, s) ∧
    (job.byteLength = 0 ∨ job.byteLength % 16 ≠ 0 ∨ rom.length < job.offset + job.byteLength →
      (exportRom (some rom) job encoder).run.run s = (.error .format, s))

/-- After spec/44_host_pipelines.md R145-R147 and R158: the encoder calls of an export that succeeds. There is one for
the raster and then one for each curated layout, in order, each with its own file, its own width and height and one
pixel a canvas word, and every call succeeded, so one failed call ends the whole export. It says nothing of the pixels'
values. That the encoder is a function of the call and the calls before it is the model's choice (log entry 9). -/
def Obligations.ExportEncodesEveryImageInOrder : Prop :=
  ∀ (s t : State) (rom : List Byte) (job : ExportJob) (encoder : ImageEncoder) (out : List EncodedImage),
    (exportRom (some rom) job encoder).run.run s = (.ok out, t) →
    out.map (fun e => (e.file, e.image.width, e.image.height)) =
      (job.imageFile, 128, (job.byteLength / 16 + 15) / 16 * 8) ::
        job.layouts.map (fun l => (l.1.file, l.1.width.toNat, l.1.height.toNat)) ∧
    (∀ e ∈ out, e.image.pixels.length = e.image.width * e.image.height) ∧
    (∀ k e, out[k]? = some e → encoder (out.take k) e = true)
end

