-- ==== Sys2Proof/Laws/State.lean ====
section
/-! SUPPORT. One lemma per field per update of State, so that later proofs never unfold a record update. -/

namespace Sys2Proof.Machine
variable (s : State) (g : GridId) (t : Nat) (gr : Grid) (x : Tile) (r : RawTile) (p : PalTile)
  (st : Status) (res : BitVec 32) (rd : BitVec 128) (c : Cause)

@[simp] theorem setGrid_params : (s.setGrid g gr).params = s.params := by cases g <;> rfl
@[simp] theorem setGrid_canvasBase : (s.setGrid g gr).canvasBase = s.canvasBase := by cases g <;> rfl
@[simp] theorem setGrid_canvasWidth : (s.setGrid g gr).canvasWidth = s.canvasWidth := by cases g <;> rfl
@[simp] theorem setGrid_canvasHeight : (s.setGrid g gr).canvasHeight = s.canvasHeight := by cases g <;> rfl
@[simp] theorem setGrid_faulted : (s.setGrid g gr).faulted = s.faulted := by cases g <;> rfl
@[simp] theorem setGrid_faultCause : (s.setGrid g gr).faultCause = s.faultCause := by cases g <;> rfl
@[simp] theorem setGrid_canvas : (s.setGrid g gr).canvas = s.canvas := by cases g <;> rfl
@[simp] theorem setGrid_answer : (s.setGrid g gr).answer = s.answer := by cases g <;> rfl
@[simp] theorem setGrid_pending : (s.setGrid g gr).pending = s.pending := by cases g <;> rfl
@[simp] theorem setGrid_grid_same : (s.setGrid g gr).grid g = gr := by cases g <;> rfl
theorem setGrid_grid (h : GridId) : (s.setGrid g gr).grid h = if h = g then gr else s.grid h := by
  cases g <;> cases h <;> rfl

@[simp] theorem setTile_params : (s.setTile g t x).params = s.params := setGrid_params ..
@[simp] theorem setTile_canvasBase : (s.setTile g t x).canvasBase = s.canvasBase := setGrid_canvasBase ..
@[simp] theorem setTile_canvasWidth : (s.setTile g t x).canvasWidth = s.canvasWidth := setGrid_canvasWidth ..
@[simp] theorem setTile_canvasHeight : (s.setTile g t x).canvasHeight = s.canvasHeight := setGrid_canvasHeight ..
@[simp] theorem setTile_faulted : (s.setTile g t x).faulted = s.faulted := setGrid_faulted ..
@[simp] theorem setTile_faultCause : (s.setTile g t x).faultCause = s.faultCause := setGrid_faultCause ..
@[simp] theorem setTile_canvas : (s.setTile g t x).canvas = s.canvas := setGrid_canvas ..
@[simp] theorem setTile_answer : (s.setTile g t x).answer = s.answer := setGrid_answer ..
@[simp] theorem setTile_pending : (s.setTile g t x).pending = s.pending := setGrid_pending ..

@[simp] theorem setRaw_params : (s.setRaw g t r).params = s.params := setGrid_params ..
@[simp] theorem setRaw_canvasBase : (s.setRaw g t r).canvasBase = s.canvasBase := setGrid_canvasBase ..
@[simp] theorem setRaw_canvasWidth : (s.setRaw g t r).canvasWidth = s.canvasWidth := setGrid_canvasWidth ..
@[simp] theorem setRaw_canvasHeight : (s.setRaw g t r).canvasHeight = s.canvasHeight := setGrid_canvasHeight ..
@[simp] theorem setRaw_faulted : (s.setRaw g t r).faulted = s.faulted := setGrid_faulted ..
@[simp] theorem setRaw_faultCause : (s.setRaw g t r).faultCause = s.faultCause := setGrid_faultCause ..
@[simp] theorem setRaw_canvas : (s.setRaw g t r).canvas = s.canvas := setGrid_canvas ..
@[simp] theorem setRaw_answer : (s.setRaw g t r).answer = s.answer := setGrid_answer ..
@[simp] theorem setRaw_pending : (s.setRaw g t r).pending = s.pending := setGrid_pending ..

@[simp] theorem setPal_params : (s.setPal g t p).params = s.params := setGrid_params ..
@[simp] theorem setPal_canvasBase : (s.setPal g t p).canvasBase = s.canvasBase := setGrid_canvasBase ..
@[simp] theorem setPal_canvasWidth : (s.setPal g t p).canvasWidth = s.canvasWidth := setGrid_canvasWidth ..
@[simp] theorem setPal_canvasHeight : (s.setPal g t p).canvasHeight = s.canvasHeight := setGrid_canvasHeight ..
@[simp] theorem setPal_faulted : (s.setPal g t p).faulted = s.faulted := setGrid_faulted ..
@[simp] theorem setPal_faultCause : (s.setPal g t p).faultCause = s.faultCause := setGrid_faultCause ..
@[simp] theorem setPal_canvas : (s.setPal g t p).canvas = s.canvas := setGrid_canvas ..
@[simp] theorem setPal_answer : (s.setPal g t p).answer = s.answer := setGrid_answer ..
@[simp] theorem setPal_pending : (s.setPal g t p).pending = s.pending := setGrid_pending ..

@[simp] theorem initGrid_params (xc yc : BitVec 16) : (s.initGrid g xc yc).params = s.params := setGrid_params ..
@[simp] theorem initGrid_canvasBase (xc yc : BitVec 16) : (s.initGrid g xc yc).canvasBase = s.canvasBase := setGrid_canvasBase ..
@[simp] theorem initGrid_canvasWidth (xc yc : BitVec 16) : (s.initGrid g xc yc).canvasWidth = s.canvasWidth := setGrid_canvasWidth ..
@[simp] theorem initGrid_canvasHeight (xc yc : BitVec 16) : (s.initGrid g xc yc).canvasHeight = s.canvasHeight := setGrid_canvasHeight ..
@[simp] theorem initGrid_faulted (xc yc : BitVec 16) : (s.initGrid g xc yc).faulted = s.faulted := setGrid_faulted ..
@[simp] theorem initGrid_faultCause (xc yc : BitVec 16) : (s.initGrid g xc yc).faultCause = s.faultCause := setGrid_faultCause ..
@[simp] theorem initGrid_canvas (xc yc : BitVec 16) : (s.initGrid g xc yc).canvas = s.canvas := setGrid_canvas ..
@[simp] theorem initGrid_answer (xc yc : BitVec 16) : (s.initGrid g xc yc).answer = s.answer := setGrid_answer ..
@[simp] theorem initGrid_pending (xc yc : BitVec 16) : (s.initGrid g xc yc).pending = s.pending := setGrid_pending ..

@[simp] theorem respond_params : (s.respond st res rd).params = s.params := rfl
@[simp] theorem respond_canvasBase : (s.respond st res rd).canvasBase = s.canvasBase := rfl
@[simp] theorem respond_canvasWidth : (s.respond st res rd).canvasWidth = s.canvasWidth := rfl
@[simp] theorem respond_canvasHeight : (s.respond st res rd).canvasHeight = s.canvasHeight := rfl
@[simp] theorem respond_faulted : (s.respond st res rd).faulted = s.faulted := rfl
@[simp] theorem respond_faultCause : (s.respond st res rd).faultCause = s.faultCause := rfl
@[simp] theorem respond_canvas : (s.respond st res rd).canvas = s.canvas := rfl
@[simp] theorem respond_pending : (s.respond st res rd).pending = s.pending := rfl
@[simp] theorem respond_grid0 : (s.respond st res rd).grid0 = s.grid0 := rfl
@[simp] theorem respond_grid1 : (s.respond st res rd).grid1 = s.grid1 := rfl
@[simp] theorem respond_grid : (s.respond st res rd).grid g = s.grid g := by cases g <;> rfl
@[simp] theorem respond_answer : (s.respond st res rd).answer = some (.response ⟨st, res, rd⟩) := rfl

@[simp] theorem enterFault_params : (s.enterFault c).params = s.params := rfl
@[simp] theorem enterFault_canvasBase : (s.enterFault c).canvasBase = s.canvasBase := rfl
@[simp] theorem enterFault_canvasWidth : (s.enterFault c).canvasWidth = s.canvasWidth := rfl
@[simp] theorem enterFault_canvasHeight : (s.enterFault c).canvasHeight = s.canvasHeight := rfl
@[simp] theorem enterFault_canvas : (s.enterFault c).canvas = s.canvas := rfl
@[simp] theorem enterFault_pending : (s.enterFault c).pending = s.pending := rfl
@[simp] theorem enterFault_grid0 : (s.enterFault c).grid0 = s.grid0 := rfl
@[simp] theorem enterFault_grid1 : (s.enterFault c).grid1 = s.grid1 := rfl
@[simp] theorem enterFault_grid : (s.enterFault c).grid g = s.grid g := by cases g <;> rfl
@[simp] theorem enterFault_faulted : (s.enterFault c).faulted = true := rfl
@[simp] theorem enterFault_faultCause : (s.enterFault c).faultCause = c.code := rfl
@[simp] theorem enterFault_answer : (s.enterFault c).answer =
    some (.response ⟨.fault, causeResult c.code, 0#128⟩) := rfl

@[simp] theorem refuseFaulted_params : s.refuseFaulted.params = s.params := rfl
@[simp] theorem refuseFaulted_canvasBase : s.refuseFaulted.canvasBase = s.canvasBase := rfl
@[simp] theorem refuseFaulted_canvasWidth : s.refuseFaulted.canvasWidth = s.canvasWidth := rfl
@[simp] theorem refuseFaulted_canvasHeight : s.refuseFaulted.canvasHeight = s.canvasHeight := rfl
@[simp] theorem refuseFaulted_faulted : s.refuseFaulted.faulted = s.faulted := rfl
@[simp] theorem refuseFaulted_faultCause : s.refuseFaulted.faultCause = s.faultCause := rfl
@[simp] theorem refuseFaulted_canvas : s.refuseFaulted.canvas = s.canvas := rfl
@[simp] theorem refuseFaulted_pending : s.refuseFaulted.pending = s.pending := rfl
@[simp] theorem refuseFaulted_grid0 : s.refuseFaulted.grid0 = s.grid0 := rfl
@[simp] theorem refuseFaulted_grid1 : s.refuseFaulted.grid1 = s.grid1 := rfl
@[simp] theorem refuseFaulted_grid : s.refuseFaulted.grid g = s.grid g := by cases g <;> rfl
@[simp] theorem refuseFaulted_answer : s.refuseFaulted.answer =
    some (.response ⟨.faulted, causeResult s.faultCause, 0#128⟩) := rfl

@[simp] theorem respondOk_eq : s.respondOk = s.respond .ok 0#32 0#128 := rfl
@[simp] theorem respondResult_eq : s.respondResult res = s.respond .ok res 0#128 := rfl
@[simp] theorem respondData_eq : s.respondData rd = s.respond .ok 0#32 rd := rfl

@[simp] theorem with_canvasBase_grid (v : BitVec 32) : ({ s with canvasBase := v } : State).grid g = s.grid g := by cases g <;> rfl
@[simp] theorem with_canvas_grid (v : Memory) : ({ s with canvas := v } : State).grid g = s.grid g := by cases g <;> rfl
@[simp] theorem with_dims_grid (w h : BitVec 16) :
    ({ s with canvasWidth := w, canvasHeight := h } : State).grid g = s.grid g := by cases g <;> rfl
@[simp] theorem with_pending_grid (v : List HostAction) : ({ s with pending := v } : State).grid g = s.grid g := by
  cases g <;> rfl
@[simp] theorem with_answer_grid (v : Option Answer) : ({ s with answer := v } : State).grid g = s.grid g := by
  cases g <;> rfl

/-! ### Reset -/
@[simp] theorem applyReset_params : s.applyReset.params = s.params := rfl
@[simp] theorem applyReset_grid : s.applyReset.grid g = Grid.reset := by cases g <;> rfl
@[simp] theorem applyReset_canvasBase : s.applyReset.canvasBase = 0#32 := rfl
@[simp] theorem applyReset_canvasWidth : s.applyReset.canvasWidth = 0#16 := rfl
@[simp] theorem applyReset_canvasHeight : s.applyReset.canvasHeight = 0#16 := rfl
@[simp] theorem applyReset_faulted : s.applyReset.faulted = false := rfl
@[simp] theorem applyReset_faultCause : s.applyReset.faultCause = 0#4 := rfl
@[simp] theorem applyReset_canvas : s.applyReset.canvas = s.canvas := rfl
@[simp] theorem applyReset_answer : s.applyReset.answer = none := rfl
@[simp] theorem applyReset_pending : s.applyReset.pending = s.pending := rfl

end Sys2Proof.Machine
end

