-- ==== Sys2Proof/Laws/Memory.lean ====
section
/-! SUPPORT. The laws of the association lists, of canvas memory and of tile storage: read after write, writes that
leave other keys alone, and the canonical form kept by every operation. -/

namespace Sys2Proof.Machine
variable {α : Type}

/-! ### Association lists -/

@[simp] theorem find_nil (a : Nat) : Assoc.find ([] : List (Nat × α)) a = none := rfl

theorem find_insert (l : List (Nat × α)) (a : Nat) (v : α) (b : Nat) :
    Assoc.find (Assoc.insert l a v) b = if b = a then some v else Assoc.find l b := by
  induction l with
  | nil => by_cases h : b = a <;> simp [Assoc.insert, Assoc.find, h, Ne.symm]
  | cons p l ih =>
    obtain ⟨k, w⟩ := p
    unfold Assoc.insert
    split
    · by_cases h : b = a
      · simp [Assoc.find, h]
      · simp [Assoc.find, h, Ne.symm h]
    · split
      · subst_vars
        by_cases h : b = k
        · simp [Assoc.find, h]
        · simp [Assoc.find, h, Ne.symm h]
      · by_cases hk : k = b
        · subst hk
          simp [Assoc.find, Ne.symm ‹¬a = k›]
        · simp [Assoc.find, hk, ih]

theorem find_erase (l : List (Nat × α)) (a b : Nat) :
    Assoc.find (Assoc.erase l a) b = if b = a then none else Assoc.find l b := by
  induction l with
  | nil => simp [Assoc.erase]
  | cons p l ih =>
    obtain ⟨k, w⟩ := p
    unfold Assoc.erase at ih ⊢
    by_cases hk : k = a
    · subst hk
      simp only [List.filter_cons, bne_self_eq_false, Bool.false_eq_true, if_false, ih]
      by_cases h : b = k
      · simp [h]
      · simp [h, Assoc.find, Ne.symm h]
    · have hk' : (k != a) = true := by simpa using hk
      simp only [List.filter_cons, hk', if_true, Assoc.find, ih]
      by_cases hb : k = b
      · subst hb; simp [hk]
      · simp [hb]

theorem mem_insert {l : List (Nat × α)} {a : Nat} {v : α} {p : Nat × α}
    (h : p ∈ Assoc.insert l a v) : p = (a, v) ∨ p ∈ l := by
  induction l with
  | nil => simpa [Assoc.insert] using h
  | cons q l ih =>
    obtain ⟨k, w⟩ := q
    unfold Assoc.insert at h
    split at h
    · simpa using h
    · split at h
      · rcases List.mem_cons.mp h with h | h
        · exact .inl h
        · exact .inr (List.mem_cons_of_mem _ h)
      · rcases List.mem_cons.mp h with h | h
        · exact .inr (by simp [h])
        · exact (ih h).imp id (List.mem_cons_of_mem _)

theorem mem_erase {l : List (Nat × α)} {a : Nat} {p : Nat × α} (h : p ∈ Assoc.erase l a) : p ∈ l :=
  (List.mem_filter.mp h).1

theorem rising_iff (l : List (Nat × α)) :
    Assoc.rising l = true ↔ l.Pairwise fun p q => p.1 < q.1 := by
  simp [Assoc.rising]

theorem rising_insert {l : List (Nat × α)} (hl : Assoc.rising l = true) (a : Nat) (v : α) :
    Assoc.rising (Assoc.insert l a v) = true := by
  rw [rising_iff] at hl ⊢
  induction l with
  | nil => simp [Assoc.insert]
  | cons q l ih =>
    obtain ⟨k, w⟩ := q
    obtain ⟨hk, hl'⟩ := List.pairwise_cons.mp hl
    unfold Assoc.insert
    split
    · rename_i hak
      refine List.pairwise_cons.mpr ⟨fun p hp => ?_, hl⟩
      rcases List.mem_cons.mp hp with rfl | hp
      · exact hak
      · exact hak.trans (hk p hp)
    · split
      · rename_i hak
        exact List.pairwise_cons.mpr ⟨fun p hp => by simpa [hak] using hk p hp, hl'⟩
      · rename_i h1 h2
        refine List.pairwise_cons.mpr ⟨fun p hp => ?_, ih hl'⟩
        rcases mem_insert hp with rfl | hp
        · show k < a
          omega
        · exact hk p hp

theorem rising_erase {l : List (Nat × α)} (hl : Assoc.rising l = true) (a : Nat) :
    Assoc.rising (Assoc.erase l a) = true := by
  rw [rising_iff] at hl ⊢
  exact hl.filter _

theorem below_iff (l : List (Nat × α)) (n : Nat) :
    Assoc.below l n = true ↔ ∀ p ∈ l, p.1 < n := by
  simp only [Assoc.below, List.all_eq_true, decide_eq_true_eq]

theorem below_insert {l : List (Nat × α)} {n a : Nat} (hl : Assoc.below l n = true) (ha : a < n) (v : α) :
    Assoc.below (Assoc.insert l a v) n = true := by
  rw [below_iff] at hl ⊢
  intro p hp
  rcases mem_insert hp with rfl | hp
  · exact ha
  · exact hl p hp

theorem below_erase {l : List (Nat × α)} {n : Nat} (hl : Assoc.below l n = true) (a : Nat) :
    Assoc.below (Assoc.erase l a) n = true := by
  rw [below_iff] at hl ⊢
  exact fun p hp => hl p (mem_erase hp)

theorem insert_insert_same (l : List (Nat × α)) (a : Nat) (v w : α) :
    Assoc.insert (Assoc.insert l a v) a w = Assoc.insert l a w := by
  induction l with
  | nil => simp [Assoc.insert]
  | cons q l ih =>
    obtain ⟨k, u⟩ := q
    by_cases h1 : a < k
    · simp [Assoc.insert, h1]
    · by_cases h2 : a = k
      · simp [Assoc.insert, h2]
      · simp [Assoc.insert, h1, h2, ih]

/-- Writes under different keys commute. -/
theorem insert_comm (l : List (Nat × α)) {a b : Nat} (hab : a ≠ b) (v w : α) :
    Assoc.insert (Assoc.insert l a v) b w = Assoc.insert (Assoc.insert l b w) a v := by
  induction l with
  | nil =>
    rcases Nat.lt_or_gt_of_ne hab with h | h
    · simp [Assoc.insert, h, Nat.not_lt_of_gt h, Ne.symm hab]
    · simp [Assoc.insert, h, Nat.not_lt_of_gt h, hab]
  | cons q l ih =>
    obtain ⟨k, u⟩ := q
    simp only [Assoc.insert]
    repeat' split
    all_goals simp only [Assoc.insert]
    all_goals repeat' split
    all_goals first
      | omega
      | simp only [ih]

/-! ### Canvas memory -/

theorem read_write (m : Memory) (a : Nat) (v : Color) (b : Nat) :
    Memory.read (Memory.write m a v) b = if b = a then some v else Memory.read m b :=
  find_insert ..

theorem wf_write {m : Memory} (h : Memory.wf m = true) (a : Nat) (v : Color) :
    Memory.wf (Memory.write m a v) = true :=
  rising_insert h a v

theorem wf_writeAll {m : Memory} (h : Memory.wf m = true) (ws : List (Nat × Color)) :
    Memory.wf (Memory.writeAll m ws) = true := by
  induction ws generalizing m with
  | nil => exact h
  | cons w ws ih => exact ih (wf_write h w.1 w.2)

theorem below_writeAll {m : Memory} {n : Nat} (h : Assoc.below m n = true) (ws : List (Nat × Color))
    (hw : ∀ p ∈ ws, p.1 < n) : Assoc.below (Memory.writeAll m ws) n = true := by
  induction ws generalizing m with
  | nil => exact h
  | cons w ws ih =>
    exact ih (below_insert h (hw w (by simp)) w.2) fun p hp => hw p (List.mem_cons_of_mem _ hp)

/-- A word none of the writes names is as it was. -/
theorem read_writeAll_other (m : Memory) (ws : List (Nat × Color)) (a : Nat) (h : ∀ p ∈ ws, p.1 ≠ a) :
    Memory.read (Memory.writeAll m ws) a = Memory.read m a := by
  induction ws generalizing m with
  | nil => rfl
  | cons w ws ih =>
    rw [Memory.writeAll, ih _ fun p hp => h p (List.mem_cons_of_mem _ hp), read_write,
      if_neg (Ne.symm (h w (by simp)))]

/-- A word that one write names, and the rest do not with another value, holds that write's value. -/
theorem read_writeAll_mem (m : Memory) (ws : List (Nat × Color)) (a : Nat) (v : Color)
    (hm : (a, v) ∈ ws) (hu : ∀ p ∈ ws, p.1 = a → p.2 = v) :
    Memory.read (Memory.writeAll m ws) a = some v := by
  induction ws generalizing m with
  | nil => simp at hm
  | cons w ws ih =>
    rw [Memory.writeAll]
    by_cases hr : (a, v) ∈ ws
    · exact ih _ hr fun p hp => hu p (List.mem_cons_of_mem _ hp)
    · have hw : w = (a, v) := by
        rcases List.mem_cons.mp hm with h | h
        · exact h.symm
        · exact absurd h hr
      rw [read_writeAll_other, hw, read_write, if_pos rfl]
      intro p hp hpa
      exact hr (by
        have := hu p (List.mem_cons_of_mem _ hp) hpa
        rwa [← hpa, ← this])

/-- A word that some write names, or that was written before, is written after. -/
theorem read_writeAll_ne_none {m : Memory} {ws : List (Nat × Color)} {a : Nat}
    (h : (∃ v, (a, v) ∈ ws) ∨ Memory.read m a ≠ none) : Memory.read (Memory.writeAll m ws) a ≠ none := by
  induction ws generalizing m with
  | nil => simpa [Memory.writeAll] using h
  | cons w ws ih =>
    refine ih ?_
    rw [read_write]
    by_cases hw : a = w.1
    · right; simp [hw]
    · rcases h with ⟨v, h⟩ | h
      · rcases List.mem_cons.mp h with rfl | h
        · exact absurd rfl hw
        · exact .inl ⟨v, h⟩
      · right; simpa [hw] using h

/-! ### Tile storage -/

theorem tile_put (l : TileStore) (t : Nat) (x : Tile) (u : Nat) :
    TileStore.tile (TileStore.put l t x) u = if u = t then x else TileStore.tile l u := by
  unfold TileStore.tile TileStore.put
  split
  · rw [find_erase]; split <;> simp [*]
  · rw [find_insert]; split <;> simp

theorem tileStore_wf_iff (l : TileStore) :
    TileStore.wf l = true ↔ Assoc.rising l = true ∧ ∀ p ∈ l, p.2 ≠ Tile.zero := by
  simp only [TileStore.wf, Bool.and_eq_true, List.all_eq_true, decide_eq_true_eq]

theorem wf_put {l : TileStore} (h : TileStore.wf l = true) (t : Nat) (x : Tile) :
    TileStore.wf (TileStore.put l t x) = true := by
  rw [tileStore_wf_iff] at h ⊢
  unfold TileStore.put
  split
  · exact ⟨rising_erase h.1 t, fun p hp => h.2 p (mem_erase hp)⟩
  · rename_i hx
    refine ⟨rising_insert h.1 t x, fun p hp => ?_⟩
    rcases mem_insert hp with rfl | hp
    · exact hx
    · exact h.2 p hp

theorem below_put {l : TileStore} {n t : Nat} (h : Assoc.below l n = true) (ht : t < n) (x : Tile) :
    Assoc.below (TileStore.put l t x) n = true := by
  unfold TileStore.put
  split
  · exact below_erase h t
  · exact below_insert h ht x

theorem put_put_same (l : TileStore) (t : Nat) (x : Tile) :
    TileStore.put (TileStore.put l t x) t x = TileStore.put l t x := by
  unfold TileStore.put
  split
  · simp [Assoc.erase]
  · exact insert_insert_same ..

end Sys2Proof.Machine
end

