-- ==== Sys2Proof/Laws/Ops.lean ====
section
/-! SUPPORT. One lemma per shared operation that says all it can do: checks, the frame every command runs in, the
accessors of the grids, and `exec` as that frame over each command's checks and effect. -/

namespace Sys2Proof.Machine

/-! ### Checks -/

@[simp] theorem firstFailing_nil : firstFailing [] = none := rfl

@[simp] theorem firstFailing_cons (b : Bool) (c : Cause) (cs : List Check) :
    firstFailing ((b, c) :: cs) = if b then some c else firstFailing cs := rfl

/-- Only a listed cause is ever reported. -/
theorem firstFailing_mem {cs : List Check} {c : Cause} (h : firstFailing cs = some c) :
    (true, c) ∈ cs := by
  induction cs with
  | nil => simp at h
  | cons q cs ih =>
    obtain ⟨b, d⟩ := q
    cases b
    · exact List.mem_cons_of_mem _ (ih (by simpa using h))
    · simp at h; simp [h]

/-- No check fails exactly when each passes. -/
theorem firstFailing_eq_none {cs : List Check} : firstFailing cs = none ↔ ∀ q ∈ cs, q.1 = false := by
  induction cs with
  | nil => simp
  | cons q cs ih =>
    obtain ⟨b, d⟩ := q
    cases b <;> simp [ih]

/-! ### `runCommand` -/

/-- Everything a command can come to. -/
theorem runCommand_cases {s t : State} {cs : List Check} {done : State}
    (h : runCommand s cs done = .next t) :
    (s.faulted = true ∧ t = s.refuseFaulted) ∨
    (s.faulted = false ∧ ∃ c, firstFailing cs = some c ∧ t = s.enterFault c) ∨
    (s.faulted = false ∧ firstFailing cs = none ∧ t = done) := by
  unfold runCommand at h
  split at h
  · rename_i hf
    exact .inl ⟨hf, by simpa using h.symm⟩
  · rename_i hf
    have hf' : s.faulted = false := by simpa using hf
    split at h
    · rename_i c hc
      exact .inr (.inl ⟨hf', c, hc, by simpa using h.symm⟩)
    · rename_i hc
      exact .inr (.inr ⟨hf', hc, by simpa using h.symm⟩)

theorem runCommand_halted {s : State} (hf : s.faulted = true) (cs : List Check) (done : State) :
    runCommand s cs done = .next s.refuseFaulted := by
  simp [runCommand, hf]

theorem runCommand_fails {s : State} (hf : s.faulted = false) {cs : List Check} {c : Cause}
    (hc : firstFailing cs = some c) (done : State) :
    runCommand s cs done = .next (s.enterFault c) := by
  simp [runCommand, hf, hc]

theorem runCommand_done {s : State} (hf : s.faulted = false) {cs : List Check}
    (hc : firstFailing cs = none) (done : State) : runCommand s cs done = .next done := by
  simp [runCommand, hf, hc]

/-- A command always answers a next state. -/
theorem runCommand_next (s : State) (cs : List Check) (done : State) :
    ∃ t, runCommand s cs done = .next t := by
  unfold runCommand
  repeat' split
  all_goals exact ⟨_, rfl⟩

/-! ### `exec` as one frame -/

/-- The checks of a command, in order: the table of spec/60_exceptions.md R162 after RESERVED_NONZERO. -/
def checksOf (i : Instr) (s : State) : List Check :=
  match i with
  | .decodeTile g ti => [s.checkTile g ti]
  | .encodeTile g ti => [s.checkTile g ti]
  | .palToColor idx => [checkValue idx]
  | .colorToPal _ => []
  | .gridInit _ xc yc => [s.checkCapacity xc yc]
  | .tileIndex g tx ty => [s.checkTileCoord g tx ty]
  | .getTile g ti => [s.checkTile g ti]
  | .setTile g ti _ => [s.checkTile g ti]
  | .getPal g ti x y => [s.checkTile g ti, checkPixel x y]
  | .setPal g ti x y v => [s.checkTile g ti, checkPixel x y, checkValue v]
  | .getRawByte g ti bi => [s.checkTile g ti, checkByteIndex bi]
  | .setRawByteBit g ti bi _ => [s.checkTile g ti, checkByteIndex bi]
  | .copyPal g ti src sti => [s.checkTile g ti, s.checkTile src sti]
  | .setCanvasBase _ => []
  | .setCanvasDim _ _ => []
  | .drawTile g ti dx dy _ => [s.checkTile g ti, s.checkCanvasFits, s.checkBlockFits dx dy]

/-- The state a command's effects and response make when no check fails. -/
def effectOf (i : Instr) (s : State) : State :=
  match i with
  | .decodeTile g ti => (s.setPal g ti.toNat (decodeRaw (s.raw g ti.toNat))).respondOk
  | .encodeTile g ti => (s.setRaw g ti.toNat (encodePal (s.pal g ti.toNat))).respondOk
  | .palToColor idx => s.respondResult (paletteColor (idx.setWidth 2))
  | .colorToPal color => s.respondColorIndex color
  | .gridInit g xc yc => (s.initGrid g xc yc).respondOk
  | .tileIndex g tx ty => s.respondResult (BitVec.ofNat 32 (ty.toNat * (s.grid g).xc.toNat + tx.toNat))
  | .getTile g ti => s.respondData (packTile (s.raw g ti.toNat))
  | .setTile g ti wdata => (s.setRaw g ti.toNat (unpackTile wdata)).respondOk
  | .getPal g ti x y => s.respondResult ((palAt (s.pal g ti.toNat) x.toNat y.toNat).setWidth 32)
  | .setPal g ti x y v =>
    (s.setPal g ti.toNat (setPalAt (s.pal g ti.toNat) x.toNat y.toNat (v.setWidth 2))).respondOk
  | .getRawByte g ti bi => s.respondResult ((rawByte (s.raw g ti.toNat) bi.toNat).setWidth 32)
  | .setRawByteBit g ti bi bm =>
    (s.setRaw g ti.toNat
      (setRawByte (s.raw g ti.toNat) bi.toNat (rawByte (s.raw g ti.toNat) bi.toNat ||| bm))).respondOk
  | .copyPal g ti src sti => (s.setPal g ti.toNat (s.pal src sti.toNat)).respondOk
  | .setCanvasBase base => ({ s with canvasBase := base } : State).respondOk
  | .setCanvasDim w h => ({ s with canvasWidth := w, canvasHeight := h } : State).respondOk
  | .drawTile g ti dx dy mirror =>
    ({ s with canvas := s.canvas.writeAll (s.drawWords g ti.toNat dx dy mirror) } : State).respondOk

/-- Every command is the one frame over its checks and its effect. -/
theorem exec_eq (i : Instr) (s : State) : exec i s = runCommand s (checksOf i s) (effectOf i s) := by
  cases i <;> rfl

/-- What a command can come to, whichever it is. -/
theorem exec_cases {i : Instr} {s t : State} (h : exec i s = .next t) :
    (s.faulted = true ∧ t = s.refuseFaulted) ∨
    (s.faulted = false ∧ ∃ c, firstFailing (checksOf i s) = some c ∧ t = s.enterFault c) ∨
    (s.faulted = false ∧ firstFailing (checksOf i s) = none ∧ t = effectOf i s) :=
  runCommand_cases (exec_eq i s ▸ h)

/-- A command none of whose checks fails completes with its effect. -/
theorem exec_done {i : Instr} {s : State} (hf : s.faulted = false)
    (h : firstFailing (checksOf i s) = none) : exec i s = .next (effectOf i s) :=
  (exec_eq i s).trans (runCommand_done hf h _)

/-- A command whose checks fail first with cause `c` enters that fault. -/
theorem exec_fails {i : Instr} {s : State} (hf : s.faulted = false) {c : Cause}
    (h : firstFailing (checksOf i s) = some c) : exec i s = .next (s.enterFault c) :=
  (exec_eq i s).trans (runCommand_fails hf h _)

/-- The tile check passes below `count`. -/
theorem checkTile_ok {s : State} {g : GridId} {ti : BitVec 16} (h : ti.toNat < s.count g) :
    s.checkTile g ti = (false, .tileIndexRange) := by
  simp [State.checkTile, h]

/-- A command whose effect takes place leaves the fault state alone. -/
@[simp] theorem effectOf_faulted (i : Instr) (s : State) : (effectOf i s).faulted = s.faulted := by
  cases i <;> simp [effectOf, State.respondColorIndex]
  split <;> simp

@[simp] theorem effectOf_faultCause (i : Instr) (s : State) : (effectOf i s).faultCause = s.faultCause := by
  cases i <;> simp [effectOf, State.respondColorIndex]
  split <;> simp

@[simp] theorem effectOf_params (i : Instr) (s : State) : (effectOf i s).params = s.params := by
  cases i <;> simp [effectOf, State.respondColorIndex]
  split <;> simp

@[simp] theorem effectOf_pending (i : Instr) (s : State) : (effectOf i s).pending = s.pending := by
  cases i <;> simp [effectOf, State.respondColorIndex]
  split <;> simp

/-! ### Tiles -/

/-- Two states with the same grids hold the same tiles. -/
theorem raw_congr {s t : State} (h : ∀ g, t.grid g = s.grid g) (g : GridId) (n : Nat) :
    t.raw g n = s.raw g n := by
  simp [State.raw, State.tile, h]

theorem pal_congr {s t : State} (h : ∀ g, t.grid g = s.grid g) (g : GridId) (n : Nat) :
    t.pal g n = s.pal g n := by
  simp [State.pal, State.tile, h]

theorem count_congr {s t : State} (h : ∀ g, t.grid g = s.grid g) (g : GridId) : t.count g = s.count g := by
  simp [State.count, h]

variable (s : State) (g : GridId) (n : Nat)

@[simp] theorem respond_raw (st : Status) (res : BitVec 32) (rd : BitVec 128) :
    (s.respond st res rd).raw g n = s.raw g n :=
  raw_congr (fun _ => respond_grid ..) ..

@[simp] theorem respond_pal (st : Status) (res : BitVec 32) (rd : BitVec 128) :
    (s.respond st res rd).pal g n = s.pal g n :=
  pal_congr (fun _ => respond_grid ..) ..

@[simp] theorem respond_count (st : Status) (res : BitVec 32) (rd : BitVec 128) :
    (s.respond st res rd).count g = s.count g :=
  count_congr (fun _ => respond_grid ..) ..

@[simp] theorem enterFault_raw (c : Cause) : (s.enterFault c).raw g n = s.raw g n :=
  raw_congr (fun _ => enterFault_grid ..) ..

@[simp] theorem enterFault_pal (c : Cause) : (s.enterFault c).pal g n = s.pal g n :=
  pal_congr (fun _ => enterFault_grid ..) ..

@[simp] theorem refuseFaulted_raw : s.refuseFaulted.raw g n = s.raw g n :=
  raw_congr (fun _ => refuseFaulted_grid ..) ..

@[simp] theorem refuseFaulted_pal : s.refuseFaulted.pal g n = s.pal g n :=
  pal_congr (fun _ => refuseFaulted_grid ..) ..

@[simp] theorem respond_canvasWord (st : Status) (res : BitVec 32) (rd : BitVec 128) (a : Nat) :
    (s.respond st res rd).canvasWord a = s.canvasWord a := rfl

theorem tile_setTile (x : Tile) (h : GridId) (k : Nat) :
    (s.setTile g n x).tile h k = if h = g ∧ k = n then x else s.tile h k := by
  unfold State.setTile State.tile
  rw [setGrid_grid]
  by_cases hg : h = g
  · subst hg; simp [tile_put]
  · simp [hg]

@[simp] theorem setRaw_raw (r : RawTile) (h : GridId) (k : Nat) :
    (s.setRaw g n r).raw h k = if h = g ∧ k = n then r else s.raw h k := by
  unfold State.setRaw State.raw
  rw [tile_setTile]
  split <;> rfl

@[simp] theorem setRaw_pal (r : RawTile) (h : GridId) (k : Nat) :
    (s.setRaw g n r).pal h k = s.pal h k := by
  unfold State.setRaw State.pal
  rw [tile_setTile]
  split
  · rename_i hk; obtain ⟨rfl, rfl⟩ := hk; rfl
  · rfl

@[simp] theorem setPal_pal (p : PalTile) (h : GridId) (k : Nat) :
    (s.setPal g n p).pal h k = if h = g ∧ k = n then p else s.pal h k := by
  unfold State.setPal State.pal
  rw [tile_setTile]
  split <;> rfl

@[simp] theorem setPal_raw (p : PalTile) (h : GridId) (k : Nat) :
    (s.setPal g n p).raw h k = s.raw h k := by
  unfold State.setPal State.raw
  rw [tile_setTile]
  split
  · rename_i hk; obtain ⟨rfl, rfl⟩ := hk; rfl
  · rfl

theorem setTile_xc (x : Tile) (h : GridId) : ((s.setTile g n x).grid h).xc = (s.grid h).xc := by
  unfold State.setTile
  rw [setGrid_grid]
  split <;> simp [*]

theorem setTile_yc (x : Tile) (h : GridId) : ((s.setTile g n x).grid h).yc = (s.grid h).yc := by
  unfold State.setTile
  rw [setGrid_grid]
  split <;> simp [*]

@[simp] theorem setRaw_xc (r : RawTile) (h : GridId) : ((s.setRaw g n r).grid h).xc = (s.grid h).xc := setTile_xc ..
@[simp] theorem setRaw_yc (r : RawTile) (h : GridId) : ((s.setRaw g n r).grid h).yc = (s.grid h).yc := setTile_yc ..
@[simp] theorem setPal_xc (p : PalTile) (h : GridId) : ((s.setPal g n p).grid h).xc = (s.grid h).xc := setTile_xc ..
@[simp] theorem setPal_yc (p : PalTile) (h : GridId) : ((s.setPal g n p).grid h).yc = (s.grid h).yc := setTile_yc ..

/-- Counts depend on the dimension registers alone. -/
theorem count_of_dims {s t : State} (h : SameDims s t) (g : GridId) : t.count g = s.count g := by
  simp [State.count, Grid.count, (h g).1, (h g).2]

@[simp] theorem setRaw_count (r : RawTile) (h : GridId) : (s.setRaw g n r).count h = s.count h :=
  count_of_dims (fun _ => by simp) _

@[simp] theorem setPal_count (p : PalTile) (h : GridId) : (s.setPal g n p).count h = s.count h :=
  count_of_dims (fun _ => by simp) _

@[simp] theorem setTile_canvasWord (x : Tile) (a : Nat) : (s.setTile g n x).canvasWord a = s.canvasWord a := by
  simp [State.canvasWord]

@[simp] theorem setRaw_canvasWord (r : RawTile) (a : Nat) : (s.setRaw g n r).canvasWord a = s.canvasWord a := by
  simp [State.canvasWord]

@[simp] theorem setPal_canvasWord (p : PalTile) (a : Nat) : (s.setPal g n p).canvasWord a = s.canvasWord a := by
  simp [State.canvasWord]

@[simp] theorem initGrid_grid (xc yc : BitVec 16) (h : GridId) :
    (s.initGrid g xc yc).grid h = if h = g then { xc := xc, yc := yc, tiles := [] } else s.grid h := by
  unfold State.initGrid
  rw [setGrid_grid]

@[simp] theorem initGrid_canvasWord (xc yc : BitVec 16) (a : Nat) :
    (s.initGrid g xc yc).canvasWord a = s.canvasWord a := by
  simp [State.canvasWord]

/-- Writing a tile twice is writing it once. -/
theorem setTile_setTile_same (x : Tile) : (s.setTile g n x).setTile g n x = s.setTile g n x := by
  cases g <;> simp [State.setTile, State.setGrid, State.grid, put_put_same]

end Sys2Proof.Machine
end

