-- ==== Sys2Proof/Laws/Operands.lean ====
section
/-! SUPPORT. Picking and replacing bytes, pixels and payload lanes; the constant tables bit by bit; the 64 pixels of
a block. -/

namespace Sys2Proof.Machine

/-! ### Raw bytes -/

theorem rawByte_lt (r : RawTile) {b : Nat} (h : b < 16) : rawByte r b = r[b] := by
  simp [rawByte, h]

theorem rawByte_setRawByte (r : RawTile) {b : Nat} (h : b < 16) (v : Byte) (c : Nat) :
    rawByte (setRawByte r b v) c = if c = b then v else rawByte r c := by
  unfold rawByte setRawByte
  by_cases hc : c = b
  · subst hc; simp [h]
  · simp [hc, Ne.symm hc]

/-- Two raw tiles with the same 16 bytes are equal. -/
theorem rawTile_ext {r q : RawTile} (h : ∀ b, b < 16 → rawByte r b = rawByte q b) : r = q := by
  refine Vector.ext fun b hb => ?_
  simpa [rawByte_lt, hb] using h b hb

/-! ### Pixels -/

theorem palAt_lt (p : PalTile) {x y : Nat} (hx : x < 8) (hy : y < 8) : palAt p x y = p[y][x] := by
  simp [palAt, hx, hy]

theorem palAt_setPalAt (p : PalTile) {x y : Nat} (hx : x < 8) (hy : y < 8) (v : PalIndex) (x' y' : Nat) :
    palAt (setPalAt p x y v) x' y' = if x' = x ∧ y' = y then v else palAt p x' y' := by
  have hp : p[y]? = some p[y] := by simp [hy]
  have hset : setPalAt p x y v = p.setIfInBounds y (p[y].setIfInBounds x v) := by
    simp [setPalAt, hp]
  rw [hset]
  unfold palAt
  by_cases hyy : y' = y
  · subst hyy
    simp only [Vector.getElem?_setIfInBounds_self, hy, if_true, hp]
    by_cases hxx : x' = x
    · subst hxx; simp [hx]
    · simp [hxx, Ne.symm hxx]
  · simp [hyy, Ne.symm hyy]

/-- Two palletized tiles with the same 64 entries are equal. -/
theorem palTile_ext {p q : PalTile} (h : ∀ x y, x < 8 → y < 8 → palAt p x y = palAt q x y) : p = q := by
  refine Vector.ext fun y hy => Vector.ext fun x hx => ?_
  simpa [palAt_lt, hx, hy] using h x y hx hy

/-! ### Payload lanes -/

/-- Byte `b` of an unpacked payload is its lane `b`. -/
theorem rawByte_unpackTile (w : BitVec 128) {b : Nat} (h : b < 16) :
    rawByte (unpackTile w) b = w.extractLsb' (8 * b) 8 := by
  simp [rawByte_lt, h, unpackTile]

theorem getLsbD_append_low {n : Nat} (x : BitVec n) (y : Byte) {k : Nat} (h : k < 8) :
    (x ++ y).getLsbD k = y.getLsbD k := by
  simp [BitVec.getLsbD_append, h]

theorem getLsbD_append_high {n : Nat} (x : BitVec n) (y : Byte) {k : Nat} (h : 8 ≤ k) :
    (x ++ y).getLsbD k = x.getLsbD (k - 8) := by
  simp [BitVec.getLsbD_append, Nat.not_lt.mpr h]

/-- Lane `b` of a packed tile is its byte `b`. -/
theorem packTile_lane (r : RawTile) {b : Nat} (h : b < 16) :
    (packTile r).extractLsb' (8 * b) 8 = rawByte r b := by
  have key : ∀ i, i < 8 →
      (r[15] ++ r[14] ++ r[13] ++ r[12] ++ r[11] ++ r[10] ++ r[9] ++ r[8] ++
        r[7] ++ r[6] ++ r[5] ++ r[4] ++ r[3] ++ r[2] ++ r[1] ++ r[0]).getLsbD (8 * b + i) = r[b].getLsbD i := by
    intro i hi
    interval_cases b
    all_goals repeat rw [getLsbD_append_high _ _ (by omega)]
    all_goals try rw [getLsbD_append_low _ _ (by omega)]
    all_goals exact congrArg _ (by omega)
  rw [rawByte_lt r h]
  apply BitVec.eq_of_getLsbD_eq
  intro i hi
  simp only [BitVec.getLsbD_extractLsb', hi, decide_true, Bool.true_and]
  exact key i hi

theorem unpackTile_packTile (r : RawTile) : unpackTile (packTile r) = r :=
  rawTile_ext fun b hb => by rw [rawByte_unpackTile _ hb, packTile_lane r hb]

/-! ### The tables bit by bit -/

/-- `MASK[x]` picks bit `7 - x` (spec/10_state.md R24). -/
theorem and_mask_ne_zero (v : Byte) (x : Fin 8) :
    (v &&& maskTable[x] ≠ 0#8) ↔ v.getLsbD (7 - x.val) = true := by
  revert v x; decide

theorem mask_getLsbD (x x' : Fin 8) : maskTable[x'].getLsbD (7 - x.val) = decide (x' = x) := by
  revert x x'; decide

/-- A bit of the OR of chosen masks. -/
theorem foldl_mask_getLsbD (l : List (Fin 8)) (q : Fin 8 → Prop) [DecidablePred q] (acc : Byte) (k : Nat) :
    (l.foldl (fun (acc : Byte) (x : Fin 8) => if q x then acc ||| maskTable[x] else acc) acc).getLsbD k =
      (acc.getLsbD k || l.any fun x => decide (q x) && maskTable[x].getLsbD k) := by
  induction l generalizing acc with
  | nil => simp
  | cons x l ih =>
    simp only [List.foldl_cons, ih, List.any_cons]
    by_cases h : q x <;> simp [h, Bool.or_assoc]

/-- The bit `Encode` gives column `x` of one plane of one row. -/
theorem encodeRow_getLsbD (row : Vector PalIndex 8) (plane : PalIndex) (x : Fin 8) :
    (encodeRow row plane).getLsbD (7 - x.val) = decide (row[x] &&& plane ≠ 0#2) := by
  unfold encodeRow
  rw [foldl_mask_getLsbD]
  simp only [mask_getLsbD]
  fin_cases x <;> simp

/-! ### The block of a draw -/

theorem mem_blockPixels {x y : Nat} : (x, y) ∈ blockPixels ↔ x < 8 ∧ y < 8 := by
  constructor
  · have h : ∀ p ∈ blockPixels, p.1 < 8 ∧ p.2 < 8 := by decide
    exact h (x, y)
  · rintro ⟨hx, hy⟩
    interval_cases x <;> interval_cases y <;> decide

theorem mem_drawWords {s : State} {g : GridId} {t : Nat} {dx dy : BitVec 16} {mirror : Bool} {a : Nat}
    {v : Color} :
    (a, v) ∈ s.drawWords g t dx dy mirror ↔
      ∃ x y, x < 8 ∧ y < 8 ∧ a = s.drawAddress dx dy x y ∧
        v = paletteColor (palAt (s.pal g t) (sourceColumn mirror x) y) := by
  unfold State.drawWords
  simp only [List.mem_map, Prod.mk.injEq]
  constructor
  · rintro ⟨⟨x, y⟩, hp, rfl, rfl⟩
    obtain ⟨hx, hy⟩ := mem_blockPixels.mp hp
    exact ⟨x, y, hx, hy, rfl, rfl⟩
  · rintro ⟨x, y, hx, hy, rfl, rfl⟩
    exact ⟨(x, y), mem_blockPixels.mpr ⟨hx, hy⟩, rfl, rfl⟩

end Sys2Proof.Machine
end

