-- ==== Sys2Proof/Laws/Codec.lean ====
section
/-! SUPPORT. The codec and the compositor: a decoded pixel, an encoded byte, the canvas after a draw. -/

namespace Sys2Proof.Machine

/-! ### The codec -/

/-- A decoded pixel: the bit of the low plane and the bit of the high plane. -/
theorem palAt_decodeRaw (r : RawTile) {x y : Nat} (hx : x < 8) (hy : y < 8) :
    palAt (decodeRaw r) x y = (if (rawByte r y).getLsbD (7 - x) then 1#2 else 0#2) +
      (if (rawByte r (8 + y)).getLsbD (7 - x) then 2#2 else 0#2) := by
  have h := fun v => and_mask_ne_zero v ⟨x, hx⟩
  simp only [palAt_lt _ hx hy, decodeRaw, Vector.getElem_ofFn, h]

/-- The low-plane byte of a row. -/
theorem rawByte_encodePal_low (p : PalTile) {y : Nat} (hy : y < 8) :
    rawByte (encodePal p) y = encodeRow p[y] 1#2 := by
  interval_cases y <;> rfl

/-- The high-plane byte of a row. -/
theorem rawByte_encodePal_high (p : PalTile) {y : Nat} (hy : y < 8) :
    rawByte (encodePal p) (8 + y) = encodeRow p[y] 2#2 := by
  interval_cases y <;> rfl

/-! ### The compositor -/

section Draw
variable (s : State) (g : GridId) (ti dx dy : BitVec 16) (mirror : Bool)

/-- The canvas a draw leaves. Rewrite with this: unfolding the 64 writes is slow. -/
theorem canvas_draw : (effectOf (.drawTile g ti dx dy mirror) s).canvas =
    Memory.writeAll s.canvas (s.drawWords g ti.toNat dx dy mirror) := by
  simp only [effectOf, respondOk_eq, respond_canvas]

theorem canvasBase_draw : (effectOf (.drawTile g ti dx dy mirror) s).canvasBase = s.canvasBase := by
  simp only [effectOf, respondOk_eq, respond_canvasBase]

theorem canvasWidth_draw : (effectOf (.drawTile g ti dx dy mirror) s).canvasWidth = s.canvasWidth := by
  simp only [effectOf, respondOk_eq, respond_canvasWidth]

theorem canvasHeight_draw : (effectOf (.drawTile g ti dx dy mirror) s).canvasHeight = s.canvasHeight := by
  simp only [effectOf, respondOk_eq, respond_canvasHeight]

theorem drawAddress_draw (ex ey : BitVec 16) (x y : Nat) :
    (effectOf (.drawTile g ti dx dy mirror) s).drawAddress ex ey x y = s.drawAddress ex ey x y := by
  simp only [State.drawAddress, canvasBase_draw, canvasWidth_draw]

theorem canvasWord_draw (a : Nat) : (effectOf (.drawTile g ti dx dy mirror) s).canvasWord a =
    Memory.read (Memory.writeAll s.canvas (s.drawWords g ti.toNat dx dy mirror)) a := by
  rw [State.canvasWord, canvas_draw]

/-- A word outside the block is as it was. -/
theorem draw_other {a : Nat} (h : ¬ InBlock s dx dy a) :
    (effectOf (.drawTile g ti dx dy mirror) s).canvasWord a = s.canvasWord a := by
  rw [canvasWord_draw]
  apply read_writeAll_other
  rintro ⟨b, v⟩ hp rfl
  obtain ⟨x, y, hx, hy, ha, -⟩ := mem_drawWords.mp hp
  exact h ⟨x, y, hx, hy, ha⟩

/-- A word of the block is written. -/
theorem draw_ne_none {a : Nat} (h : InBlock s dx dy a) :
    (effectOf (.drawTile g ti dx dy mirror) s).canvasWord a ≠ none := by
  obtain ⟨x, y, hx, hy, rfl⟩ := h
  rw [canvasWord_draw]
  exact read_writeAll_ne_none (.inl ⟨_, mem_drawWords.mpr ⟨x, y, hx, hy, rfl, rfl⟩⟩)

/-- A draw writes nothing back into the grids. -/
theorem draw_grid (h : GridId) : (effectOf (.drawTile g ti dx dy mirror) s).grid h = s.grid h := by
  simp [effectOf]

/-- Over another canvas memory a draw leaves the same state but for canvas memory. -/
theorem draw_canvas_swap (m : Memory) : effectOf (.drawTile g ti dx dy mirror) { s with canvas := m } =
    { effectOf (.drawTile g ti dx dy mirror) s with
      canvas := (effectOf (.drawTile g ti dx dy mirror) { s with canvas := m }).canvas } := by
  obtain ⟨m', h⟩ : ∃ m', effectOf (.drawTile g ti dx dy mirror) { s with canvas := m } =
      { effectOf (.drawTile g ti dx dy mirror) s with canvas := m' } := by
    cases g <;> exact ⟨_, rfl⟩
  rw [h]

end Draw

/-- A draw leaves what is drawable drawable. -/
theorem drawable_draw {s : State} {g h : GridId} {ti dx dy tj ex ey : BitVec 16} {mirror : Bool}
    (hd : Drawable s h tj ex ey) : Drawable (effectOf (.drawTile g ti dx dy mirror) s) h tj ex ey := by
  simpa only [Drawable, count_congr (draw_grid s g ti dx dy mirror), canvasBase_draw, canvasWidth_draw,
    canvasHeight_draw, effectOf_params] using hd

/-- A draw that is drawable completes. -/
theorem exec_draw {s : State} {g : GridId} {ti dx dy : BitVec 16} {mirror : Bool} (hf : s.faulted = false)
    (h : Drawable s g ti dx dy) :
    exec (.drawTile g ti dx dy mirror) s = .next (effectOf (.drawTile g ti dx dy mirror) s) := by
  obtain ⟨h1, h2, h3, h4⟩ := h
  refine exec_done hf ?_
  simp [checksOf, State.checkTile, State.checkCanvasFits, State.checkBlockFits, Nat.not_le.mpr h1,
    Nat.not_lt.mpr h2, Nat.not_lt.mpr h3, Nat.not_lt.mpr h4]

end Sys2Proof.Machine
end

