-- ==== Sys2Proof/Laws/Encoding.lean ====
section
/-! SUPPORT. The bits of an encoded command word. -/

namespace Sys2Proof

theorem getLsbD_commandWord (opc : BitVec 8) (g s m : Bool) (ti : BitVec 16) (lo : BitVec 32) (k : Nat) :
    (commandWord opc g s m ti lo).getLsbD k =
      if k < 32 then lo.getLsbD k else if k < 48 then ti.getLsbD (k - 32) else if k < 53 then false
      else if k = 53 then m else if k = 54 then s else if k = 55 then g else opc.getLsbD (k - 56) := by
  have key : (opc ++ BitVec.ofBool g ++ BitVec.ofBool s ++ BitVec.ofBool m ++ 0#5 ++ ti ++ lo).getLsbD k =
      if k < 32 then lo.getLsbD k else if k < 48 then ti.getLsbD (k - 32) else if k < 53 then false
      else if k = 53 then m else if k = 54 then s else if k = 55 then g else opc.getLsbD (k - 56) := by
    simp only [BitVec.getLsbD_append, BitVec.getLsbD_ofBool, BitVec.getLsbD_zero]
    repeat' split
    all_goals first
      | rfl
      | omega
      | (exact congrArg _ (by omega))
      | (simp; omega)
  exact key

theorem getLsbD_loBytes (b3 b2 b1 b0 : BitVec 8) (k : Nat) :
    (loBytes b3 b2 b1 b0).getLsbD k =
      if k < 8 then b0.getLsbD k else if k < 16 then b1.getLsbD (k - 8)
      else if k < 24 then b2.getLsbD (k - 16) else b3.getLsbD (k - 24) := by
  have key : (b3 ++ b2 ++ b1 ++ b0).getLsbD k =
      if k < 8 then b0.getLsbD k else if k < 16 then b1.getLsbD (k - 8)
      else if k < 24 then b2.getLsbD (k - 16) else b3.getLsbD (k - 24) := by
    simp only [BitVec.getLsbD_append]
    repeat' split
    all_goals first
      | rfl
      | omega
  exact key

theorem getLsbD_loPair (b a : BitVec 16) (k : Nat) :
    (loPair b a).getLsbD k = if k < 16 then a.getLsbD k else b.getLsbD (k - 16) := by
  have key : (b ++ a).getLsbD k = if k < 16 then a.getLsbD k else b.getLsbD (k - 16) := by
    simp only [BitVec.getLsbD_append]
  exact key

/-- The `OPC` field of a command word. -/
theorem opcField_commandWord (opc : BitVec 8) (g s m : Bool) (ti : BitVec 16) (lo : BitVec 32) :
    opcField (commandWord opc g s m ti lo) = opc := by
  apply BitVec.eq_of_getLsbD_eq
  intro k hk
  simp only [opcField, BitVec.getLsbD_extractLsb', getLsbD_commandWord, hk, decide_true, Bool.true_and]
  repeat' rw [if_neg (by omega)]
  exact congrArg _ (by omega)

/-! ### The fields of a command word -/

section Fields
variable (opc : BitVec 8) (g s m : Bool) (ti : BitVec 16) (lo : BitVec 32)

@[simp] theorem gField_commandWord : gField (commandWord opc g s m ti lo) = g := by
  exact getLsbD_commandWord ..

@[simp] theorem sField_commandWord : sField (commandWord opc g s m ti lo) = s := by
  exact getLsbD_commandWord ..

@[simp] theorem mField_commandWord : mField (commandWord opc g s m ti lo) = m := by
  exact getLsbD_commandWord ..

@[simp] theorem tiField_commandWord : tiField (commandWord opc g s m ti lo) = ti := by
  apply BitVec.eq_of_getLsbD_eq
  intro k hk
  simp only [tiField, BitVec.getLsbD_extractLsb', getLsbD_commandWord, hk, decide_true, Bool.true_and]
  rw [if_neg (by omega), if_pos (by omega)]
  exact congrArg _ (by omega)

/-- `LO` of a command word. -/
@[simp] theorem wordField_commandWord : wordField (commandWord opc g s m ti lo) = lo := by
  apply BitVec.eq_of_getLsbD_eq
  intro k hk
  simp only [wordField, BitVec.getLsbD_extractLsb', getLsbD_commandWord, hk, decide_true, Bool.true_and]
  rw [if_pos (by omega)]
  exact congrArg _ (by omega)

/-- A field of `LO` of a command word is that field of `LO`. -/
theorem extract_commandWord {start len : Nat} (h : start + len ≤ 32) :
    (commandWord opc g s m ti lo).extractLsb' start len = lo.extractLsb' start len := by
  apply BitVec.eq_of_getLsbD_eq
  intro k hk
  simp only [BitVec.getLsbD_extractLsb', getLsbD_commandWord]
  rw [if_pos (by omega)]

end Fields

@[simp] theorem gridOfBit_bitOfGrid (g : GridId) : gridOfBit (bitOfGrid g) = g := by cases g <;> rfl

@[simp] theorem bitOfGrid_gridOfBit (b : Bool) : bitOfGrid (gridOfBit b) = b := by cases b <;> rfl

/-- The instruction a row makes belongs to that row. -/
@[simp] theorem op_instr (op : Op) (r : Request) : (op.instr r).op = op := by cases op <;> rfl

/-- The row of an `OPC` of the map is the row that has it. -/
@[simp] theorem opOfOpc_opc (op : Op) : opOfOpc op.opc = some op := by
  cases op <;> decide

theorem opOfOpc_eq_some {opc : BitVec 8} {op : Op} (h : opOfOpc opc = some op) : opc = op.opc := by
  unfold opOfOpc at h
  have hb : (op.opc == opc) = true := List.find?_some (p := fun op : Op => op.opc == opc) h
  exact (beq_iff_eq.mp hb).symm

/-- A word that decodes has its row's `OPC`, meets its row's mask, and is what that row makes of it. -/
theorem decode_ok {r : Request} {i : Instr} (h : decode r = .ok i) :
    ∃ op : Op, opcField r.cmd = op.opc ∧ r.cmd &&& op.mask = op.pattern ∧ i = op.instr r := by
  unfold decode at h
  split at h
  · simp at h
  · rename_i op ho
    split at h
    · exact ⟨op, opOfOpc_eq_some ho, ‹_›, by simpa using h.symm⟩
    · simp at h

theorem opOfOpc_eq_none {c : BitVec 8} : opOfOpc c = none ↔ ∀ op : Op, c ≠ op.opc := by
  constructor
  · rintro h op rfl; simp at h
  · intro h
    cases ho : opOfOpc c with
    | none => rfl
    | some op => exact absurd (opOfOpc_eq_some ho) (h op)

/-- A word that meets a row's mask has that row's `OPC`. -/
theorem opcField_of_mask (op : Op) {c : BitVec 64} (h : c &&& op.mask = op.pattern) : opcField c = op.opc := by
  apply BitVec.eq_of_getLsbD_eq
  intro k hk
  have e := congrArg (fun x : BitVec 64 => x.getLsbD (56 + k)) h
  simp only [BitVec.getLsbD_and] at e
  simp only [opcField, BitVec.getLsbD_extractLsb', hk, decide_true, Bool.true_and]
  cases op <;> simp only [Op.mask, Op.pattern, Op.opc] at e ⊢ <;> interval_cases k <;> simpa using e

theorem decode_of_mask (op : Op) {r : Request} (h : r.cmd &&& op.mask = op.pattern) :
    decode r = .ok (op.instr r) := by
  unfold decode
  simp [opcField_of_mask op h, h]

end Sys2Proof
end

