-- ==== Sys2Proof/Laws/HostPipelines.lean ====
section
/-! SUPPORT. Host procedures: what one that succeeds has done (`…_ok`), and when one succeeds (`…_run`), for the
combinators and the shared procedures. `p.run.run s = (r, t)` reads: from `s`, `p` ends with `r` and leaves the block
in `t`. -/

namespace Sys2Proof.Machine

/-! ### Combinators -/

section Combinators
variable {α β : Type} {s t : State}

/-- A sequence that succeeds: its parts do, one after the other. -/
theorem hostProc_bind_ok {p : HostProc α} {f : α → HostProc β} {b : β}
    (h : (p >>= f).run.run s = (.ok b, t)) :
    ∃ a u, p.run.run s = (.ok a, u) ∧ (f a).run.run u = (.ok b, t) := by
  rw [ExceptT.run_bind, StateT.run_bind] at h
  rcases hp : p.run.run s with ⟨r, u⟩
  rw [hp] at h
  cases r with
  | ok a => exact ⟨a, u, rfl, h⟩
  | error e => cases h

theorem hostProc_pure_ok {a b : α} (h : (pure a : HostProc α).run.run s = (.ok b, t)) : b = a ∧ t = s := by
  cases h; exact ⟨rfl, rfl⟩

/-- A loop that collects gives one result an element. -/
theorem hostProc_mapM_length {f : α → HostProc β} {l : List α} {out : List β}
    (h : (l.mapM f).run.run s = (.ok out, t)) : out.length = l.length := by
  induction l generalizing s t out with
  | nil => rw [List.mapM_nil] at h; obtain ⟨rfl, -⟩ := hostProc_pure_ok h; rfl
  | cons x l ih =>
    rw [List.mapM_cons] at h
    obtain ⟨a, u, -, h⟩ := hostProc_bind_ok h
    obtain ⟨b, v, h1, h⟩ := hostProc_bind_ok h
    obtain ⟨rfl, -⟩ := hostProc_pure_ok h
    simp [ih h1]

/-- A check that passes is fulfilled and changes nothing. -/
theorem checkFormat_ok {good : Bool} {x : Unit} (h : (checkFormat good).run.run s = (.ok x, t)) :
    good = true ∧ t = s := by
  cases good
  · cases h
  · exact ⟨rfl, (hostProc_pure_ok h).2⟩

/-- A sequence whose first part succeeds goes on with the second. -/
theorem hostProc_bind_run {p : HostProc α} {f : α → HostProc β} {a : α} (h : p.run.run s = (.ok a, t)) :
    (p >>= f).run.run s = (f a).run.run t := by
  rw [ExceptT.run_bind, StateT.run_bind, h]; rfl

/-- A loop succeeds when every round, from a state with the loop's invariant, succeeds and keeps it. -/
theorem hostProc_forM_run {f : α → HostProc Unit} (P : List α → State → Prop) {l : List α} (hs : P l s)
    (hf : ∀ a rest u, a ∈ l → P (a :: rest) u → ∃ v, (f a).run.run u = (.ok (), v) ∧ P rest v) :
    ∃ t, (l.forM f).run.run s = (.ok (), t) ∧ P [] t := by
  induction l generalizing s with
  | nil => exact ⟨s, rfl, hs⟩
  | cons a l ih =>
    obtain ⟨v, h1, h2⟩ := hf a l s (List.mem_cons_self ..) hs
    obtain ⟨t, h3, h4⟩ := ih h2 fun b rest u hb => hf b rest u (List.mem_cons_of_mem _ hb)
    exact ⟨t, (hostProc_bind_run h1).trans h3, h4⟩

/-- So does a loop that collects. -/
theorem hostProc_mapM_run {f : α → HostProc β} (P : State → Prop) {l : List α} (hs : P s)
    (hf : ∀ a u, a ∈ l → P u → ∃ b v, (f a).run.run u = (.ok b, v) ∧ P v) :
    ∃ out t, (l.mapM f).run.run s = (.ok out, t) ∧ P t := by
  induction l generalizing s with
  | nil => exact ⟨[], s, by rw [List.mapM_nil]; rfl, hs⟩
  | cons a l ih =>
    obtain ⟨b, v, h1, h2⟩ := hf a s (List.mem_cons_self ..) hs
    obtain ⟨out, t, h3, h4⟩ := ih h2 fun c u hc => hf c u (List.mem_cons_of_mem _ hc)
    refine ⟨b :: out, t, ?_, h4⟩
    rw [List.mapM_cons, hostProc_bind_run h1, hostProc_bind_run h3]; rfl

end Combinators

/-! ### The host's actions -/

section Actions
variable {s t : State}

/-- A number that fits its field. -/
theorem field16_run {n : Nat} (h : n < 2 ^ 16) : (field16 n).run.run s = (.ok (BitVec.ofNat 16 n), s) := by
  unfold field16 fieldOperand
  rw [if_pos h]; rfl

/-- A command the block executes with OK. -/
theorem sendOk_run {i : Instr} {r : Response} (hd : decode (encode i) = .ok i) (hf : s.faulted = false)
    (h : exec i s = .next t) (ha : t.answer = some (.response r)) (hr : r.status = .ok) :
    (sendOk i).run.run s = (.ok r, t) := by
  have h1 : hostAct (.command (encode i)) s = .next t := by
    simp only [hostAct, issue, hf, hd]; exact h
  have h2 : (perform (.command (encode i))).run.run s = (.ok t.answer, t) := by
    unfold perform
    rw [hostProc_bind_run (show (get : HostProc State).run.run s = (.ok s, s) from rfl), h1]; rfl
  have h3 : (send i).run.run s = (.ok r, t) := by
    unfold send
    rw [hostProc_bind_run h2, ha]; rfl
  unfold sendOk
  rw [hostProc_bind_run h3, if_pos hr]; rfl

/-- A written canvas word the host reads. -/
theorem readWord_run {a : Nat} {v : Color} (ha : a < s.params.canvasWords) (h : s.canvasWord a = some v) :
    (readWord a).run.run s = (.ok v, { s with answer := some (.memData v) }) := by
  have h1 : hostAct (.memRead a) s = .next { s with answer := some (.memData v) } := by
    simp only [hostAct, hostRead, ha, h, if_true]
  have h2 : (perform (.memRead a)).run.run s = (.ok (some (.memData v)), { s with answer := some (.memData v) }) := by
    unfold perform
    rw [hostProc_bind_run (show (get : HostProc State).run.run s = (.ok s, s) from rfl), h1]; rfl
  unfold readWord
  rw [hostProc_bind_run h2]; rfl

/-- A canvas word the host writes. -/
theorem writeWord_run {a : Nat} (ha : a < s.params.canvasWords) (v : Color) :
    (writeWord a v).run.run s = (.ok (), { s with canvas := s.canvas.write a v, answer := none }) := by
  have h1 : hostAct (.memWrite a v) s = .next { s with canvas := s.canvas.write a v, answer := none } := by
    simp only [hostAct, hostWrite, ha, if_true]
  have h2 : (perform (.memWrite a v)).run.run s =
      (.ok none, { s with canvas := s.canvas.write a v, answer := none }) := by
    unfold perform
    rw [hostProc_bind_run (show (get : HostProc State).run.run s = (.ok s, s) from rfl), h1]; rfl
  unfold writeWord
  rw [hostProc_bind_run h2]; rfl

/-- A canvas that is written throughout can be read out; of the block only the answer changes. -/
theorem readCanvas_run {base n : Nat} (hb : base + n ≤ s.params.canvasWords)
    (h : ∀ k, k < n → s.canvasWord (base + k) ≠ none) :
    ∃ pixels t, (readCanvas base n).run.run s = (.ok pixels, t) ∧ ∃ a, t = { s with answer := a } := by
  refine hostProc_mapM_run (fun t => ∃ a, t = { s with answer := a }) ⟨s.answer, rfl⟩ ?_
  rintro k _ hk ⟨a, rfl⟩
  have hk := List.mem_range.mp hk
  obtain ⟨v, hv⟩ := Option.ne_none_iff_exists'.mp (h k hk)
  exact ⟨v, _, readWord_run (s := { s with answer := a }) (show base + k < s.params.canvasWords by omega) hv,
    _, rfl⟩

end Actions

/-! ### The export -/

section Export
variable {s t : State}

/-- A canvas read out has one pixel a word. -/
theorem readCanvas_length {base n : Nat} {pixels : List Color}
    (h : (readCanvas base n).run.run s = (.ok pixels, t)) : pixels.length = n := by
  simpa using hostProc_mapM_length h

/-- An encoder call that succeeds was accepted and is appended. -/
theorem imageEncode_ok {encoder : ImageEncoder} {done out : List EncodedImage} {e : EncodedImage}
    (h : (imageEncode encoder done e).run.run s = (.ok out, t)) :
    encoder done e = true ∧ out = done ++ [e] ∧ t = s := by
  unfold imageEncode at h
  split at h
  · exact ⟨‹_›, hostProc_pure_ok h⟩
  · cases h

@[simp] theorem redirect_base (plan : GatherPlan) (l : CuratedLayout) : (plan.redirect l).base = l.base := rfl
@[simp] theorem redirect_width (plan : GatherPlan) (l : CuratedLayout) : (plan.redirect l).width = l.width := rfl
@[simp] theorem redirect_height (plan : GatherPlan) (l : CuratedLayout) : (plan.redirect l).height = l.height := rfl
@[simp] theorem redirect_file (plan : GatherPlan) (l : CuratedLayout) : (plan.redirect l).file = l.file := rfl

/-- A layout's image has the layout's size. -/
theorem drawLayout_ok {l : CuratedLayout} {fill : Color} {g : GridId} {image : Image}
    (h : (drawLayout l fill g).run.run s = (.ok image, t)) :
    image.width = l.width.toNat ∧ image.height = l.height.toNat ∧
      image.pixels.length = l.width.toNat * l.height.toNat := by
  simp only [drawLayout] at h
  obtain ⟨_, u, -, h⟩ := hostProc_bind_ok h
  obtain ⟨_, u, -, h⟩ := hostProc_bind_ok h
  obtain ⟨_, u, -, h⟩ := hostProc_bind_ok h
  obtain ⟨_, u, -, h⟩ := hostProc_bind_ok h
  obtain ⟨pixels, u, hp, h⟩ := hostProc_bind_ok h
  obtain ⟨rfl, -⟩ := hostProc_pure_ok h
  exact ⟨rfl, rfl, readCanvas_length hp⟩

/-- So it has by either route. -/
theorem renderLayout_ok {l : CuratedLayout} {fill : Color} {route : CuratedRoute} {image : Image}
    (h : (renderLayout l fill route).run.run s = (.ok image, t)) :
    image.width = l.width.toNat ∧ image.height = l.height.toNat ∧
      image.pixels.length = l.width.toNat * l.height.toNat := by
  cases route with
  | direct => exact drawLayout_ok h
  | gathered plan =>
    simp only [renderLayout] at h
    obtain ⟨_, u, -, h⟩ := hostProc_bind_ok h
    simpa using drawLayout_ok h

/-- The raster image has the grid's size in pixels. -/
theorem exportRender_ok {base : BitVec 32} {gh : Nat} {image : Image}
    (h : (exportRender base gh).run.run s = (.ok image, t)) :
    image.width = fixedTileWidth * 8 ∧ image.height = gh * 8 ∧
      image.pixels.length = (fixedTileWidth * 8) * (gh * 8) := by
  simp only [exportRender] at h
  obtain ⟨_, u, -, h⟩ := hostProc_bind_ok h
  obtain ⟨_, u, -, h⟩ := hostProc_bind_ok h
  obtain ⟨_, u, -, h⟩ := hostProc_bind_ok h
  obtain ⟨_, u, -, h⟩ := hostProc_bind_ok h
  obtain ⟨_, u, -, h⟩ := hostProc_bind_ok h
  obtain ⟨pixels, u, hp, h⟩ := hostProc_bind_ok h
  obtain ⟨rfl, -⟩ := hostProc_pure_ok h
  exact ⟨rfl, rfl, readCanvas_length hp⟩

end Export

end Sys2Proof.Machine
end

