-- ==== Sys2Proof/Laws/PerInstr.lean ====
section
/-! SUPPORT. Statements made per instruction, one lemma a constructor. -/

namespace Sys2Proof.Laws.WordMatchesRow

/-- The encoded word has the row's `OPC` and meets its mask and pattern: no reserved bit is set
(spec/30_encoding.md R68, R69). -/
def Statement (i : Instr) : Prop :=
  opcField (encodeWord i) = i.op.opc ∧ encodeWord i &&& i.op.mask = i.op.pattern

theorem decodeTile (g : GridId) (ti : BitVec 16) : Statement (.decodeTile g ti) := by
  refine ⟨opcField_commandWord .., BitVec.eq_of_getLsbD_eq fun k hk => ?_⟩
  simp only [BitVec.getLsbD_and, encodeWord, getLsbD_commandWord,
    Instr.op, Op.opc, Op.mask, Op.pattern]
  interval_cases k <;> simp

theorem encodeTile (g : GridId) (ti : BitVec 16) : Statement (.encodeTile g ti) := by
  refine ⟨opcField_commandWord .., BitVec.eq_of_getLsbD_eq fun k hk => ?_⟩
  simp only [BitVec.getLsbD_and, encodeWord, getLsbD_commandWord,
    Instr.op, Op.opc, Op.mask, Op.pattern]
  interval_cases k <;> simp

theorem palToColor (idx : BitVec 8) : Statement (.palToColor idx) := by
  refine ⟨opcField_commandWord .., BitVec.eq_of_getLsbD_eq fun k hk => ?_⟩
  simp only [BitVec.getLsbD_and, encodeWord, getLsbD_commandWord, getLsbD_loBytes,
    Instr.op, Op.opc, Op.mask, Op.pattern]
  interval_cases k <;> simp

theorem colorToPal (color : BitVec 32) : Statement (.colorToPal color) := by
  refine ⟨opcField_commandWord .., BitVec.eq_of_getLsbD_eq fun k hk => ?_⟩
  simp only [BitVec.getLsbD_and, encodeWord, getLsbD_commandWord,
    Instr.op, Op.opc, Op.mask, Op.pattern]
  interval_cases k <;> simp

theorem gridInit (g : GridId) (xc : BitVec 16) (yc : BitVec 16) : Statement (.gridInit g xc yc) := by
  refine ⟨opcField_commandWord .., BitVec.eq_of_getLsbD_eq fun k hk => ?_⟩
  simp only [BitVec.getLsbD_and, encodeWord, getLsbD_commandWord, getLsbD_loPair,
    Instr.op, Op.opc, Op.mask, Op.pattern]
  interval_cases k <;> simp

theorem tileIndex (g : GridId) (tx : BitVec 16) (ty : BitVec 16) : Statement (.tileIndex g tx ty) := by
  refine ⟨opcField_commandWord .., BitVec.eq_of_getLsbD_eq fun k hk => ?_⟩
  simp only [BitVec.getLsbD_and, encodeWord, getLsbD_commandWord, getLsbD_loPair,
    Instr.op, Op.opc, Op.mask, Op.pattern]
  interval_cases k <;> simp

theorem getTile (g : GridId) (ti : BitVec 16) : Statement (.getTile g ti) := by
  refine ⟨opcField_commandWord .., BitVec.eq_of_getLsbD_eq fun k hk => ?_⟩
  simp only [BitVec.getLsbD_and, encodeWord, getLsbD_commandWord,
    Instr.op, Op.opc, Op.mask, Op.pattern]
  interval_cases k <;> simp

theorem setTile (g : GridId) (ti : BitVec 16) (wdata : BitVec 128) : Statement (.setTile g ti wdata) := by
  refine ⟨opcField_commandWord .., BitVec.eq_of_getLsbD_eq fun k hk => ?_⟩
  simp only [BitVec.getLsbD_and, encodeWord, getLsbD_commandWord,
    Instr.op, Op.opc, Op.mask, Op.pattern]
  interval_cases k <;> simp

theorem getPal (g : GridId) (ti : BitVec 16) (x : BitVec 8) (y : BitVec 8) : Statement (.getPal g ti x y) := by
  refine ⟨opcField_commandWord .., BitVec.eq_of_getLsbD_eq fun k hk => ?_⟩
  simp only [BitVec.getLsbD_and, encodeWord, getLsbD_commandWord, getLsbD_loBytes,
    Instr.op, Op.opc, Op.mask, Op.pattern]
  interval_cases k <;> simp

theorem setPal (g : GridId) (ti : BitVec 16) (x : BitVec 8) (y : BitVec 8) (v : BitVec 8) : Statement (.setPal g ti x y v) := by
  refine ⟨opcField_commandWord .., BitVec.eq_of_getLsbD_eq fun k hk => ?_⟩
  simp only [BitVec.getLsbD_and, encodeWord, getLsbD_commandWord, getLsbD_loBytes,
    Instr.op, Op.opc, Op.mask, Op.pattern]
  interval_cases k <;> simp

theorem getRawByte (g : GridId) (ti : BitVec 16) (bi : BitVec 8) : Statement (.getRawByte g ti bi) := by
  refine ⟨opcField_commandWord .., BitVec.eq_of_getLsbD_eq fun k hk => ?_⟩
  simp only [BitVec.getLsbD_and, encodeWord, getLsbD_commandWord, getLsbD_loBytes,
    Instr.op, Op.opc, Op.mask, Op.pattern]
  interval_cases k <;> simp

theorem setRawByteBit (g : GridId) (ti : BitVec 16) (bi : BitVec 8) (bm : BitVec 8) : Statement (.setRawByteBit g ti bi bm) := by
  refine ⟨opcField_commandWord .., BitVec.eq_of_getLsbD_eq fun k hk => ?_⟩
  simp only [BitVec.getLsbD_and, encodeWord, getLsbD_commandWord, getLsbD_loBytes,
    Instr.op, Op.opc, Op.mask, Op.pattern]
  interval_cases k <;> simp

theorem copyPal (g : GridId) (ti : BitVec 16) (src : GridId) (sti : BitVec 16) : Statement (.copyPal g ti src sti) := by
  refine ⟨opcField_commandWord .., BitVec.eq_of_getLsbD_eq fun k hk => ?_⟩
  simp only [BitVec.getLsbD_and, encodeWord, getLsbD_commandWord, getLsbD_loPair,
    Instr.op, Op.opc, Op.mask, Op.pattern]
  interval_cases k <;> simp

theorem setCanvasBase (base : BitVec 32) : Statement (.setCanvasBase base) := by
  refine ⟨opcField_commandWord .., BitVec.eq_of_getLsbD_eq fun k hk => ?_⟩
  simp only [BitVec.getLsbD_and, encodeWord, getLsbD_commandWord,
    Instr.op, Op.opc, Op.mask, Op.pattern]
  interval_cases k <;> simp

theorem setCanvasDim (w : BitVec 16) (h : BitVec 16) : Statement (.setCanvasDim w h) := by
  refine ⟨opcField_commandWord .., BitVec.eq_of_getLsbD_eq fun k hk => ?_⟩
  simp only [BitVec.getLsbD_and, encodeWord, getLsbD_commandWord, getLsbD_loPair,
    Instr.op, Op.opc, Op.mask, Op.pattern]
  interval_cases k <;> simp

theorem drawTile (g : GridId) (ti : BitVec 16) (dx : BitVec 16) (dy : BitVec 16) (mirror : Bool) : Statement (.drawTile g ti dx dy mirror) := by
  refine ⟨opcField_commandWord .., BitVec.eq_of_getLsbD_eq fun k hk => ?_⟩
  simp only [BitVec.getLsbD_and, encodeWord, getLsbD_commandWord, getLsbD_loPair,
    Instr.op, Op.opc, Op.mask, Op.pattern]
  interval_cases k <;> simp

/-- The statement for every instruction. -/
theorem all (i : Instr) : Statement i := by
  cases i with
  | decodeTile g ti => exact decodeTile g ti
  | encodeTile g ti => exact encodeTile g ti
  | palToColor idx => exact palToColor idx
  | colorToPal color => exact colorToPal color
  | gridInit g xc yc => exact gridInit g xc yc
  | tileIndex g tx ty => exact tileIndex g tx ty
  | getTile g ti => exact getTile g ti
  | setTile g ti wdata => exact setTile g ti wdata
  | getPal g ti x y => exact getPal g ti x y
  | setPal g ti x y v => exact setPal g ti x y v
  | getRawByte g ti bi => exact getRawByte g ti bi
  | setRawByteBit g ti bi bm => exact setRawByteBit g ti bi bm
  | copyPal g ti src sti => exact copyPal g ti src sti
  | setCanvasBase base => exact setCanvasBase base
  | setCanvasDim w h => exact setCanvasDim w h
  | drawTile g ti dx dy mirror => exact drawTile g ti dx dy mirror

end Sys2Proof.Laws.WordMatchesRow
end

