-- ==== Sys2Proof/Laws/Port.lean ====
section
/-! SUPPORT. Everything `issue`, the host's canvas accesses and `step` can come to. -/

namespace Sys2Proof.Machine

/-- Everything an issued word can come to. -/
theorem issue_cases {r : Request} {s t : State} (h : issue r s = .next t) :
    (s.faulted = true ∧ t = s.refuseFaulted) ∨
    (s.faulted = false ∧ ∃ c, t = s.enterFault c) ∨
    (s.faulted = false ∧ ∃ i, decode r = .ok i ∧ firstFailing (checksOf i s) = none ∧ t = effectOf i s) := by
  unfold issue at h
  split at h
  · exact .inl ⟨‹_›, by simpa using h.symm⟩
  · rename_i hf
    have hf : s.faulted = false := by simpa using hf
    split at h
    · exact .inr (.inl ⟨hf, _, by simpa using h.symm⟩)
    · rename_i i hi
      rcases exec_cases h with ⟨h1, -⟩ | ⟨-, c, -, h2⟩ | ⟨-, h1, h2⟩
      · simp [hf] at h1
      · exact .inr (.inl ⟨hf, c, h2⟩)
      · exact .inr (.inr ⟨hf, i, hi, h1, h2⟩)

/-- An issued word is always answered. -/
theorem issue_next (r : Request) (s : State) : ∃ t, issue r s = .next t := by
  unfold issue
  repeat' split
  · exact ⟨_, rfl⟩
  · exact ⟨_, rfl⟩
  · rw [exec_eq]; exact runCommand_next ..

/-- Everything a host read that goes on can come to. -/
theorem hostRead_cases {a : Nat} {s t : State} (h : hostRead a s = .next t) :
    ∃ v, s.canvasWord a = some v ∧ a < s.params.canvasWords ∧
      t = { s with answer := some (.memData v) } := by
  unfold hostRead at h
  split at h
  · split at h
    · exact ⟨_, ‹_›, ‹_›, by simpa using h.symm⟩
    · cases h
  · cases h

/-- Everything a host write that goes on can come to. -/
theorem hostWrite_cases {a : Nat} {v : Color} {s t : State} (h : hostWrite a v s = .next t) :
    a < s.params.canvasWords ∧ t = { s with canvas := s.canvas.write a v, answer := none } := by
  unfold hostWrite at h
  split at h
  · exact ⟨‹_›, by simpa using h.symm⟩
  · cases h

/-- Everything a step that goes on can come to. -/
theorem step_cases {s t : State} (h : step s = .next t) :
    (s.pending = [] ∧ t = s) ∨
    ∃ a rest, s.pending = a :: rest ∧ hostAct a { s with pending := rest } = .next t := by
  unfold step at h
  split at h
  · exact .inl ⟨‹_›, by simpa using h.symm⟩
  · exact .inr ⟨_, _, ‹_›, h⟩

end Sys2Proof.Machine
end

