-- ==== Sys2Proof/Tests/Slice0.lean ====
section
/-! SUPPORT. The model's own tests: well-formedness, decoding of words written out from spec/30_encoding.md, one-step
tests against spec/95_test_vectors.md, and for every statement with hypotheses a state and operands that meet them. -/

namespace Sys2Proof.Tests
open Sys2Proof Sys2Proof.Machine

/-! ### Well-formedness: one ill-formed term for each check -/

theorem test_wf_idx : (Instr.palToColor 3#8).wellFormed = true ∧ (Instr.palToColor 4#8).wellFormed = false := by decide
theorem test_wf_getPal_x : (Instr.getPal .g0 0#16 7#8 7#8).wellFormed = true ∧
    (Instr.getPal .g0 0#16 8#8 7#8).wellFormed = false := by decide
theorem test_wf_getPal_y : (Instr.getPal .g0 0#16 7#8 8#8).wellFormed = false := by decide
theorem test_wf_setPal_x : (Instr.setPal .g0 0#16 7#8 7#8 3#8).wellFormed = true ∧
    (Instr.setPal .g0 0#16 8#8 7#8 3#8).wellFormed = false := by decide
theorem test_wf_setPal_y : (Instr.setPal .g0 0#16 7#8 8#8 3#8).wellFormed = false := by decide
theorem test_wf_setPal_v : (Instr.setPal .g0 0#16 7#8 7#8 4#8).wellFormed = false := by decide
theorem test_wf_getRawByte_bi : (Instr.getRawByte .g0 0#16 15#8).wellFormed = true ∧
    (Instr.getRawByte .g0 0#16 16#8).wellFormed = false := by decide
theorem test_wf_setRawByteBit_bi : (Instr.setRawByteBit .g0 0#16 15#8 0#8).wellFormed = true ∧
    (Instr.setRawByteBit .g0 0#16 16#8 0#8).wellFormed = false := by decide

/-! ### Decoding: words from the bit patterns of spec/30_encoding.md R68 -/

/-- `00010000_1..._tttt` with TI = 0x8001. -/
theorem test_decode_decodeTile : decode ⟨0x1080800100000000#64, 0#128⟩ = .ok (.decodeTile .g1 0x8001#16) := by decide
theorem test_decode_encodeTile : decode ⟨0x1180000200000000#64, 0#128⟩ = .ok (.encodeTile .g1 2#16) := by decide
theorem test_decode_palToColor : decode ⟨0x2000000000000081#64, 0#128⟩ = .ok (.palToColor 0x81#8) := by decide
theorem test_decode_colorToPal : decode ⟨0x21000000FF60A0C0#64, 0#128⟩ = .ok (.colorToPal 0xFF60A0C0#32) := by decide
theorem test_decode_gridInit : decode ⟨0x3080000000050010#64, 0#128⟩ = .ok (.gridInit .g1 16#16 5#16) := by decide
theorem test_decode_tileIndex : decode ⟨0x3100000000020003#64, 0#128⟩ = .ok (.tileIndex .g0 3#16 2#16) := by decide
theorem test_decode_getTile : decode ⟨0x3200000100000000#64, 0#128⟩ = .ok (.getTile .g0 1#16) := by decide
theorem test_decode_setTile : decode ⟨0x3300000100000000#64, 0xFFEEDDCCBBAA99887766554433221100#128⟩ =
    .ok (.setTile .g0 1#16 0xFFEEDDCCBBAA99887766554433221100#128) := by decide
theorem test_decode_getPal : decode ⟨0x3480000200000403#64, 0#128⟩ = .ok (.getPal .g1 2#16 3#8 4#8) := by decide
theorem test_decode_setPal : decode ⟨0x3500000100090403#64, 0#128⟩ = .ok (.setPal .g0 1#16 3#8 4#8 9#8) := by decide
theorem test_decode_getRawByte : decode ⟨0x360000010000000F#64, 0#128⟩ = .ok (.getRawByte .g0 1#16 15#8) := by decide
theorem test_decode_setRawByteBit : decode ⟨0x3700000000001003#64, 0#128⟩ =
    .ok (.setRawByteBit .g0 0#16 3#8 0x10#8) := by decide
theorem test_decode_copyPal : decode ⟨0x3840000200000005#64, 0#128⟩ = .ok (.copyPal .g0 2#16 .g1 5#16) := by decide
theorem test_decode_setCanvasBase : decode ⟨0x4000000000000FA0#64, 0#128⟩ = .ok (.setCanvasBase 0xFA0#32) := by decide
theorem test_decode_setCanvasDim : decode ⟨0x4100000000080080#64, 0#128⟩ = .ok (.setCanvasDim 128#16 8#16) := by decide
theorem test_decode_drawTile : decode ⟨0x4220000500080010#64, 0#128⟩ =
    .ok (.drawTile .g0 5#16 16#16 8#16 true) := by decide

/-- V50: illegal opcodes, whatever the other bits. -/
theorem test_decode_illegal : decode ⟨0#64, 0#128⟩ = .error .illegalOpcode ∧
    decode ⟨0x12FFFFFFFFFFFFFF#64, 0#128⟩ = .error .illegalOpcode ∧
    decode ⟨0x3900000000000000#64, 0#128⟩ = .error .illegalOpcode := by decide

/-- V51, V26, V35, V46: a reserved bit in each position. -/
theorem test_decode_reserved :
    ([0x3001000000010001#64, 0x4180000000080008#64, 0x3200000000000001#64, 0x3800000000010000#64,
      0x3500000001000000#64, 0x2080000000000001#64, 0x2000000000000100#64, 0x3400000000010000#64,
      0x4240000000000000#64].all fun w => decide (decode ⟨w, 0#128⟩ = .error .reservedNonzero)) = true := by decide

/-- The row numbering of the opcode table: the payload above the word. -/
theorem test_decodeTableWord : decodeTableWord 192 ((0xAB * 2 ^ 64) + 0x3300000000000000) =
    some (.setTile .g0 0#16 0xAB#128) ∧ decodeTableWord 64 0x4220000500080010 =
    some (.drawTile .g0 5#16 16#16 8#16 true) ∧ decodeTableWord 64 0 = none := by decide

/-- The example of spec/30_encoding.md R75: `DRAW_TILE g0, 5, 16, 8, mirror`. -/
theorem test_assemble : (assembleLine "DRAW_TILE" [.grid 0, .num 5, .num 16, .num 8, .mirror]).map encodeWord =
    some 0x4220000500080010#64 := by decide

/-- R75: an operand that does not fit is an assembly error. -/
theorem test_assemble_refuses : assembleLine "GET_TILE" [.grid 0, .num 65536] = none ∧
    assembleLine "GET_TILE" [.grid 2, .num 0] = none := by decide

/-! ### Small states -/

/-- Raw bytes of V10 and a palletized tile whose row 0 is `10000002` (V41). -/
def demoTile : Tile :=
  { raw := #v[0xFF#8, 0#8, 0#8, 0#8, 0#8, 0#8, 0#8, 0#8, 0#8, 0xFF#8, 0#8, 0#8, 0#8, 0#8, 0#8, 0x0F#8]
    pal := setPalAt (setPalAt Tile.zero.pal 0 0 1#2) 7 0 2#2 }

/-- A 1 x 1 grid 0 with that tile, a 4 x 1 grid 1, a 16 x 8 canvas at word 0. -/
def demo : State :=
  { State.resetWith { maxTiles := 256, canvasWords := 4096 } with
    grid0 := { xc := 1#16, yc := 1#16, tiles := [(0, demoTile)] }
    grid1 := { xc := 4#16, yc := 1#16, tiles := [] }
    canvasWidth := 16#16
    canvasHeight := 8#16 }

/-- `demo` after a contract violation with cause PIXEL_COORD_RANGE. -/
def halted : State := { demo with faulted := true, faultCause := 4#4 }

/-- `demo` with one canvas word written. -/
def written : State := { demo with canvas := [(4095, 0xFF000000#32)] }

/-- The state of an outcome; the reset state where it stops. -/
def after (o : Host.Outcome State Fault Refusal) : State :=
  match o with
  | .next t => t
  | .fault _ => State.reset
  | .refused _ => State.reset

/-- What the host gets. -/
def answerOf (o : Host.Outcome State Fault Refusal) : Option Answer := (after o).answer

/-- An OK response with a scalar result. -/
def okWith (r : BitVec 32) : Option Answer := some (.response ⟨.ok, r, 0#128⟩)

/-- A FAULT response. -/
def faultWith (c : BitVec 32) : Option Answer := some (.response ⟨.fault, c, 0#128⟩)

/-! ### One step of each command -/

/-- V10. -/
theorem test_decodeTile : palAt ((after (exec (.decodeTile .g0 0#16) demo)).pal .g0 0) 7 0 = 1#2 ∧
    palAt ((after (exec (.decodeTile .g0 0#16) demo)).pal .g0 0) 0 1 = 2#2 ∧
    palAt ((after (exec (.decodeTile .g0 0#16) demo)).pal .g0 0) 3 7 = 0#2 ∧
    palAt ((after (exec (.decodeTile .g0 0#16) demo)).pal .g0 0) 4 7 = 2#2 := by decide

/-- V12: the old raw bytes do not survive; index 1 goes to the low plane, index 2 to the high plane. -/
theorem test_encodeTile : (after (exec (.encodeTile .g0 0#16) demo)).raw .g0 0 =
    #v[0x80#8, 0#8, 0#8, 0#8, 0#8, 0#8, 0#8, 0#8, 0x01#8, 0#8, 0#8, 0#8, 0#8, 0#8, 0#8, 0#8] := by decide

/-- V20, V25. -/
theorem test_palToColor : answerOf (exec (.palToColor 2#8) demo) = okWith 0xFF000000#32 ∧
    answerOf (exec (.palToColor 4#8) demo) = faultWith 6#32 := by decide

/-- V21, V7: all 32 bits are compared. -/
theorem test_colorToPal : answerOf (exec (.colorToPal 0xFF60A0C0#32) demo) = okWith 3#32 ∧
    answerOf (exec (.colorToPal 0x00505050#32) demo) =
      some (.response ⟨.unknownColor, 0x00505050#32, 0#128⟩) := by decide

/-- V30. -/
theorem test_gridInit : (after (exec (.gridInit .g0 16#16 16#16) demo)).grid0 = ⟨16#16, 16#16, []⟩ ∧
    answerOf (exec (.gridInit .g1 257#16 1#16) demo) = faultWith 7#32 := by decide

/-- V31, V32. -/
theorem test_tileIndex : answerOf (exec (.tileIndex .g0 3#16 2#16) (demo.initGrid .g0 16#16 4#16)) = okWith 0x23#32 ∧
    answerOf (exec (.tileIndex .g0 16#16 0#16) (demo.initGrid .g0 16#16 4#16)) = faultWith 8#32 := by decide

/-- spec/30_encoding.md R77: byte 0 in bits [7:0], byte 15 in bits [127:120]. -/
theorem test_getTile : answerOf (exec (.getTile .g0 0#16) demo) =
    some (.response ⟨.ok, 0#32, 0x0F0000000000FF0000000000000000FF#128⟩) := by decide

/-- V33. -/
theorem test_setTile :
    (after (exec (.setTile .g1 1#16 0xFFEEDDCCBBAA99887766554433221100#128) demo)).raw .g1 1 =
    #v[0x00#8, 0x11#8, 0x22#8, 0x33#8, 0x44#8, 0x55#8, 0x66#8, 0x77#8, 0x88#8, 0x99#8, 0xAA#8, 0xBB#8, 0xCC#8,
      0xDD#8, 0xEE#8, 0xFF#8] := by decide

/-- V34: X is the column, Y the row. -/
theorem test_getPal : answerOf (exec (.getPal .g0 0#16 7#8 0#8) demo) = okWith 2#32 ∧
    answerOf (exec (.getPal .g0 0#16 8#8 0#8) demo) = faultWith 4#32 := by decide

/-- V34: the value, and the tile before the value. -/
theorem test_setPal : palAt ((after (exec (.setPal .g0 0#16 3#8 4#8 2#8) demo)).pal .g0 0) 3 4 = 2#2 ∧
    answerOf (exec (.setPal .g0 1#16 0#8 0#8 9#8) demo) = faultWith 3#32 := by decide

/-- V37. -/
theorem test_getRawByte : answerOf (exec (.getRawByte .g0 0#16 15#8) demo) = okWith 0x0F#32 ∧
    answerOf (exec (.getRawByte .g0 0#16 16#8) demo) = faultWith 5#32 := by decide

/-- V36: bits accumulate. -/
theorem test_setRawByteBit :
    rawByte ((after (exec (.setRawByteBit .g0 0#16 15#8 0x18#8) demo)).raw .g0 0) 15 = 0x1F#8 ∧
    answerOf (exec (.setRawByteBit .g0 0#16 16#8 1#8) demo) = faultWith 5#32 := by decide

/-- V38: the palletized tile goes over, the raw bytes do not. -/
theorem test_copyPal : (after (exec (.copyPal .g1 2#16 .g0 0#16) demo)).pal .g1 2 = demoTile.pal ∧
    (after (exec (.copyPal .g1 2#16 .g0 0#16) demo)).raw .g1 2 = Tile.zero.raw := by decide

/-- The examples of spec/43_compositor.md R126 and R127. -/
theorem test_setCanvasBase : (after (exec (.setCanvasBase 0x400#32) demo)).canvasBase = 0x400#32 := by decide
theorem test_setCanvasDim : (after (exec (.setCanvasDim 128#16 8#16) demo)).canvasWidth = 128#16 ∧
    (after (exec (.setCanvasDim 128#16 8#16) demo)).canvasHeight = 8#16 := by decide

/-- V41: the mirrored row reads `20000001`; word 7 stays unwritten. -/
theorem test_drawTile_mirror :
    (after (exec (.drawTile .g0 0#16 8#16 0#16 true) demo)).canvasWord 8 = some 0xFF000000#32 ∧
    (after (exec (.drawTile .g0 0#16 8#16 0#16 true) demo)).canvasWord 15 = some 0xFFE0A0C0#32 ∧
    (after (exec (.drawTile .g0 0#16 8#16 0#16 true) demo)).canvasWord 9 = some 0xFF505050#32 ∧
    (after (exec (.drawTile .g0 0#16 8#16 0#16 true) demo)).canvasWord 7 = none := by decide

/-- V43, V46: a block past the right edge faults though its words exist; the tile is checked before the canvas. -/
theorem test_drawTile_bounds : answerOf (exec (.drawTile .g0 0#16 9#16 0#16 false) demo) = faultWith 9#32 ∧
    (after (exec (.drawTile .g0 0#16 9#16 0#16 false) demo)).canvas = [] ∧
    answerOf (exec (.drawTile .g0 1#16 9#16 0#16 false) demo) = faultWith 3#32 := by decide

/-! ### The host port, a step, reset -/

/-- V52: every word is refused with the first cause while halted, and reset clears it. -/
theorem test_halted : answerOf (issue ⟨0#64, 0#128⟩ halted) = some (.response ⟨.faulted, 4#32, 0#128⟩) ∧
    (after (issue ⟨0#64, 0#128⟩ halted)).faultCause = 4#4 ∧
    (after (hostAct .reset halted)).faulted = false := by decide

/-- V50: the all-zero word halts the block. -/
theorem test_zero_word : answerOf (issue ⟨0#64, 0#128⟩ State.reset) = faultWith 1#32 := by decide

/-- The first step after reset runs the command that was placed: PAL_TO_COLOR 2 (V20). -/
theorem test_step_from_reset :
    answerOf (step (State.reset.withFetchWord 64 0x2000000000000002)) = okWith 0xFF000000#32 := by decide

/-- spec/20_memory.md R50: a written word is read back, an unwritten one faults. -/
theorem test_host_memory : answerOf (hostAct (.memRead 4095) written) = some (.memData 0xFF000000#32) := by decide
theorem test_host_unwritten : hostAct (.memRead 0) written = .fault (.canvasWordUnwritten 0) := rfl
theorem test_host_absent : hostAct (.memRead 4096) written = .fault (.canvasWordAbsent 4096) := rfl

/-- `LOAD_TILE` (R76) loads and decodes: V2. -/
theorem test_loadTile : palAt ((after (runPseudo (.loadTile .g0 0#16 0x800000000000000080#128) demo)).pal .g0 0) 0 0 =
    3#2 := by decide

theorem test_reset_memory_wf : Memory.wf State.reset.canvas = true := by decide

/-! ### Witnesses: states and operands that meet a statement's hypotheses, each clause at its boundary -/

theorem witness_EncodeOfDecodeIsTheWord : decode ⟨0x3300000100000000#64, 7#128⟩ = .ok (.setTile .g0 1#16 7#128) ∧
    (Instr.setTile .g0 1#16 7#128).op = .setTile := by decide

theorem witness_IllegalOpcodeFaults : demo.faulted = false ∧
    ([0x0FFFFFFFFFFFFFFF#64, 0x1200000000000000#64, 0x22FFFFFFFFFFFFFF#64, 0x3900000000000000#64,
      0x43FFFFFFFFFFFFFF#64, 0xFF00000000000000#64].all fun c =>
      decide (opcField c ∉ [0x10#8, 0x11#8, 0x20#8, 0x21#8, 0x30#8, 0x31#8, 0x32#8, 0x33#8, 0x34#8, 0x35#8,
        0x36#8, 0x37#8, 0x38#8, 0x40#8, 0x41#8, 0x42#8])) = true := by decide

/-- Each way of the statement: the mask, RSV, S, M, G, TI, V. -/
theorem witness_ReservedBitFaults : demo.faulted = false ∧
    (opcField 0x3200000000000001#64 = Op.getTile.opc ∧
      0x3200000000000001#64 &&& Op.getTile.mask ≠ Op.getTile.pattern) ∧
    (opcField 0x4201000000000000#64 = Op.drawTile.opc ∧ BitVec.extractLsb' 48 5 0x4201000000000000#64 ≠ 0#5) ∧
    (opcField 0x4240000000000000#64 = Op.drawTile.opc ∧ sField 0x4240000000000000#64 = true) ∧
    (opcField 0x3820000000000000#64 = Op.copyPal.opc ∧ mField 0x3820000000000000#64 = true) ∧
    (opcField 0x4180000000080008#64 = Op.setCanvasDim.opc ∧ gField 0x4180000000080008#64 = true) ∧
    (opcField 0x21000001FF000000#64 = Op.colorToPal.opc ∧ tiField 0x21000001FF000000#64 ≠ 0#16) ∧
    (opcField 0x3400000000010000#64 = Op.getPal.opc ∧ vField 0x3400000000010000#64 ≠ 0#8) := by decide

theorem witness_PayloadIgnoredButBySetTile : opcField 0x3200000100000000#64 ≠ 0x33#8 := by decide

theorem witness_HaltedRefusesEveryWord : halted.faulted = true := by decide

theorem witness_FaultEntryWritesOnlyFaultState : demo.faulted = false ∧
    ∃ t, issue ⟨0#64, 0#128⟩ demo = .next t ∧ t.faulted = true := ⟨by decide, _, rfl, rfl⟩

theorem witness_UnknownColorIsNoFault : ∃ t, exec (.colorToPal 0xFF123456#32) demo = .next t ∧
    t.answer = some (.response ⟨.unknownColor, 0xFF123456#32, 0#128⟩) := ⟨_, rfl, by decide⟩

theorem witness_OnlyResetLeavesTheHaltedState : ({ halted with pending := [.reset] } : State).faulted = true ∧
    ∃ t, step { halted with pending := [.reset] } = .next t ∧ t.faulted = false := ⟨by decide, _, rfl, rfl⟩

/-- Both places of COPY_PAL, at `count` exactly. -/
theorem witness_TileOutOfRangeFaults : demo.faulted = false ∧
    ((.g1, 4#16) ∈ tilesNamed (.copyPal .g1 4#16 .g0 0#16) ∧ demo.count .g1 ≤ 4) ∧
    ((.g0, 1#16) ∈ tilesNamed (.copyPal .g1 3#16 .g0 1#16) ∧ demo.count .g0 ≤ 1) ∧
    ((.g0, 1#16) ∈ tilesNamed (.getTile .g0 1#16) ∧ demo.count .g0 ≤ 1) := by decide

/-- X = 8, Y = 8, V = 4, BI = 16, IDX = 4. -/
theorem witness_SmallOperandOutOfRangeFaults : demo.faulted = false ∧ (0#16).toNat < demo.count .g0 ∧
    7 < (8#8).toNat ∧ (7#8).toNat ≤ 7 ∧ 3 < (4#8).toNat ∧ 15 < (16#8).toNat := by decide

/-- 257 x 1 tiles of 256; column XC, row YC. -/
theorem witness_GridSizeAndCoordinateFaults : demo.faulted = false ∧
    demo.params.maxTiles < (257#16).toNat * (1#16).toNat ∧ (demo.grid .g1).xc.toNat ≤ (4#16).toNat ∧
    (demo.grid .g1).yc.toNat ≤ (1#16).toNat := by decide

/-- A canvas one word too far, a block one column and one row too far, and the last legal position. -/
theorem witness_CanvasCheckDecidesDraw : demo.faulted = false ∧ (0#16).toNat < demo.count .g0 ∧
    (let s := { demo with canvasBase := 3969#32 }
     s.params.canvasWords < s.canvasBase.toNat + s.canvasWidth.toNat * s.canvasHeight.toNat) ∧
    demo.canvasWidth.toNat < (9#16).toNat + 8 ∧ demo.canvasHeight.toNat < (1#16).toNat + 8 ∧
    Drawable { demo with canvasBase := 3968#32 } .g0 0#16 8#16 0#16 := by decide

theorem witness_IllFormedInstructionAlwaysFaults : demo.faulted = false ∧
    (Instr.setPal .g0 0#16 7#8 7#8 4#8).wellFormed = false := by decide

theorem witness_PaletteIndexIsLowPlusTwiceHigh : 7 < 8 := by decide

/-- V5: rows 2 agree, the other rows do not. -/
theorem witness_DecodedRowDependsOnItsTwoBytes :
    let r := setRawByte (setRawByte (Vector.replicate 16 0x00#8) 2 0xA0#8) 10 0x60#8
    let q := setRawByte (setRawByte (Vector.replicate 16 0xFF#8) 2 0xA0#8) 10 0x60#8
    rawByte r 2 = rawByte q 2 ∧ rawByte r (8 + 2) = rawByte q (8 + 2) ∧ r ≠ q := by decide

/-- The premises of DecodeTileResult, EncodeTileResult, CodecRoundTripThroughTheGrid, GetTileResult and
SetTileResult, at the last tile. -/
theorem witness_DecodeTileResult : demo.faulted = false ∧ (3#16).toNat < demo.count .g1 := by decide
theorem witness_EncodeTileResult : demo.faulted = false ∧ (3#16).toNat < demo.count .g1 := by decide
theorem witness_CodecRoundTripThroughTheGrid : demo.faulted = false ∧ (3#16).toNat < demo.count .g1 := by decide
theorem witness_GetTileResult : demo.faulted = false ∧ (3#16).toNat < demo.count .g1 := by decide
theorem witness_SetTileResult : demo.faulted = false ∧ (3#16).toNat < demo.count .g1 := by decide

theorem witness_PalToColorAnswersTheColour : demo.faulted = false ∧ 4#8 ∉ [0#8, 1#8, 2#8, 3#8] := by decide
theorem witness_ColorToPalAnswersTheIndex : demo.faulted = false := by decide
theorem witness_OtherColoursAreUnknown : demo.faulted = false ∧
    0xFF505051#32 ∉ [0xFF505050#32, 0xFFE0A0C0#32, 0xFF000000#32, 0xFF60A0C0#32] := by decide
theorem witness_PaletteRoundTrip : demo.faulted = false ∧ (3#8).toNat ≤ 3 := by decide

/-- 16 x 16 tiles are exactly MAX_TILES. -/
theorem witness_GridInitResult : demo.faulted = false ∧
    (16#16).toNat * (16#16).toNat ≤ demo.params.maxTiles ∧ GridId.g1 ≠ .g0 := by decide
theorem witness_TileIndexResult : demo.faulted = false ∧ (3#16).toNat < (demo.grid .g1).xc.toNat ∧
    (0#16).toNat < (demo.grid .g1).yc.toNat := by decide
theorem witness_TileIndexIsRasterOrder : demo.faulted = false ∧ 3 < demo.count .g1 := by decide
theorem witness_GetPalAndGetRawByteResults : demo.faulted = false ∧ (0#16).toNat < demo.count .g0 ∧
    (7#8).toNat ≤ 7 ∧ (15#8).toNat ≤ 15 := by decide
theorem witness_SetPalResult : demo.faulted = false ∧ (0#16).toNat < demo.count .g0 ∧ (7#8).toNat ≤ 7 ∧
    (3#8).toNat ≤ 3 := by decide
theorem witness_SetRawByteBitResult : demo.faulted = false ∧ (0#16).toNat < demo.count .g0 ∧
    (15#8).toNat ≤ 15 := by decide
theorem witness_CopyPalResult : demo.faulted = false ∧ (3#16).toNat < demo.count .g1 ∧
    (0#16).toNat < demo.count .g0 := by decide

theorem witness_GridIsolation : (∃ t, exec (.copyPal .g1 3#16 .g0 0#16) demo = .next t) ∧
    (Instr.setPal .g0 0#16 7#8 7#8 3#8).op ∈ gridOps ∧ (Instr.setPal .g0 0#16 7#8 7#8 3#8).op ≠ .gridInit ∧
    (∃ t, exec (.setPal .g0 0#16 7#8 7#8 3#8) demo = .next t) := ⟨⟨_, rfl⟩, by decide, by decide, ⟨_, rfl⟩⟩

theorem witness_GridCommandsIgnoreTheCanvas : (Instr.getTile .g0 0#16).op ∈ gridOps ∧
    (∃ t, exec (.getTile .g0 0#16) demo = .next t) ∧ (∃ t, exec (.gridInit .g0 16#16 16#16) demo = .next t) :=
  ⟨by decide, ⟨_, rfl⟩, ⟨_, rfl⟩⟩

theorem witness_RawAndPalletizedWritersAreSeparate : (∃ t, exec (.copyPal .g1 3#16 .g0 0#16) demo = .next t) ∧
    (Instr.copyPal .g1 3#16 .g0 0#16).op ∉ [Op.setTile, .setRawByteBit, .encodeTile, .gridInit] ∧
    (∃ t, exec (.setTile .g0 0#16 1#128) demo = .next t) ∧
    (Instr.setTile .g0 0#16 1#128).op ∉ [Op.setPal, .copyPal, .decodeTile, .gridInit] :=
  ⟨⟨_, rfl⟩, by decide, ⟨_, rfl⟩, by decide⟩

theorem witness_CanvasRegisterWriteResults : demo.faulted = false := by decide

/-- The last legal position of a canvas that ends at the last word. -/
theorem witness_DrawTileResult : demo.faulted = false ∧
    Drawable { demo with canvasBase := 3968#32 } .g0 0#16 8#16 0#16 := by decide
theorem witness_BlockWordsAreDistinct : (8#16).toNat + 8 ≤ demo.canvasWidth.toNat ∧ 7 < 8 ∧
    demo.drawAddress 8#16 0#16 7 7 = demo.drawAddress 8#16 0#16 7 7 := by decide
theorem witness_MirroringIsNotStored : demo.faulted = false ∧ Drawable demo .g0 0#16 8#16 0#16 := by decide
/-- Two overlapping blocks. -/
theorem witness_LaterDrawWins : demo.faulted = false ∧ Drawable demo .g0 0#16 0#16 0#16 ∧
    Drawable demo .g1 3#16 4#16 0#16 := by decide

/-- A draw that does not fault, with the last word of its block and the word after it; a draw that faults, and a
command that is no draw. -/
theorem witness_BlockNeverReadsCanvasMemory :
    (∃ t, exec (.drawTile .g0 0#16 8#16 0#16 false) demo = .next t ∧ t.faulted = false ∧
      DrawsWord (.drawTile .g0 0#16 8#16 0#16 false) demo t 127 ∧
      ¬ DrawsWord (.drawTile .g0 0#16 8#16 0#16 false) demo t 128) ∧
    (∃ t, exec (.drawTile .g0 0#16 9#16 0#16 false) demo = .next t ∧ t.faulted = true) ∧
    (∃ t, exec (.getTile .g0 0#16) demo = .next t) ∧ (Instr.getTile .g0 0#16).op ≠ .drawTile := by
  have hf : (effectOf (.drawTile .g0 0#16 8#16 0#16 false) demo).faulted = false := by
    rw [effectOf_faulted]; decide
  refine ⟨⟨_, exec_draw (by decide) (by decide), hf, ⟨hf, _, _, _, _, _, rfl, 7, 7, by decide⟩, ?_⟩,
    ⟨_, rfl, by decide⟩, ⟨_, rfl⟩, by decide⟩
  rintro ⟨-, g, ti, dx, dy, mirror, he, x, y, hx, hy, ha⟩
  cases he
  have hb : demo.drawAddress 8#16 0#16 x y = y * 16 + (8 + x) := by simp [State.drawAddress, demo, State.resetWith]
  omega

theorem witness_CommandsAreIdempotent :
    (∃ t, exec (.setRawByteBit .g0 0#16 3#8 0x10#8) demo = .next t ∧ t.faulted = false) ∧
    (∃ t, exec (.setRawByteBit .g0 0#16 16#8 0x10#8) demo = .next t ∧ t.faulted = true) :=
  ⟨⟨_, rfl, by decide⟩, ⟨_, rfl, by decide⟩⟩

theorem witness_ResetSetsTheResetState : ∃ t, hostAct .reset halted = .next t := ⟨_, rfl⟩
theorem witness_ResetIsAcceptedInEveryState : ({ halted with pending := [.reset] } : State).pending = .reset :: [] := rfl

/-- The last word, written and unwritten, halted or not. -/
theorem witness_HostCanvasAccess : 4095 < demo.params.canvasWords ∧ written.canvasWord 4095 = some 0xFF000000#32 ∧
    demo.canvasWord 4095 = none := by decide

theorem witness_StepRunsTheDecodedInstruction :
    (State.reset.withFetchWord 64 0x2000000000000002).pending = .command ⟨0x2000000000000002#64, 0#128⟩ :: [] ∧
    decode ⟨0x2000000000000002#64, 0#128⟩ = .ok (.palToColor 2#8) ∧ State.reset.pending = [] := by decide

theorem witness_StepKeepsTheInvariant : written.Inv ∧ halted.Inv ∧
    ∃ t, step { written with pending := [.memRead 4095] } = .next t := ⟨by decide, by decide, _, rfl⟩

theorem witness_ResetMeetsTheInvariant : (Params.mk 1 1).legal = true ∧ (Params.mk 65536 (2 ^ 32)).legal = true := by
  decide

theorem witness_SpliceKeepsOtherBytes : 1 + [0#128, 1#128].length * 16 ≤ (List.replicate 33 0#8).length := by decide

/-- The import of an 8 x 8 image of background into one tile of an 18-byte ROM. -/
def smallImport : Except HostError (List Byte) × State :=
  (importImage (some ⟨8, 8, List.replicate 64 0xFF505050#32⟩) (some (List.replicate 18 0xEE#8)) 1 true).run.run
    State.reset

/-- It succeeds, and the tile is 16 zero bytes (index 0 everywhere). -/
theorem test_import : (match smallImport.1 with
    | .ok out => decide (out = 0xEE#8 :: (List.replicate 16 0#8 ++ [0xEE#8]))
    | .error _ => false) = true := by decide +kernel

theorem witness_ImportKeepsOtherBytes : ∃ out t,
    (importImage (some ⟨8, 8, List.replicate 64 0xFF505050#32⟩) (some (List.replicate 18 0xEE#8)) 1 true).run.run
      State.reset = (.ok out, t) := by
  have h := test_import
  change ∃ out t, smallImport = (.ok out, t)
  revert h
  generalize smallImport = r
  obtain ⟨r, t⟩ := r
  cases r with
  | ok out => exact fun _ => ⟨out, t, rfl⟩
  | error e => exact fun h => absurd h (by simp)

/-! ### The export (spec/95_test_vectors.md P3) -/

/-- The half-sprite of P3. -/
def halfSprite : RawTile := #v[0x0F#8, 0x30#8, 0x40#8, 0x80#8, 0x80#8, 0x40#8, 0x30#8, 0x0F#8,
  0x00#8, 0x0F#8, 0x3F#8, 0x7F#8, 0x7F#8, 0x3F#8, 0x0F#8, 0x00#8]

/-- P3 after its DECODE_TILE commands. -/
def loaded : State :=
  { State.resetWith Params.reference with
    grid0 := { xc := 2#16, yc := 1#16, tiles := [(1, { raw := halfSprite, pal := decodeRaw halfSprite })] } }

/-- P3's layout, for the tiles' numbers in grid 0. -/
def spriteLayout : CuratedLayout :=
  { base := 0x200#32, width := 16#16, height := 8#16, file := "sprite.png"
    records := [⟨1#16, 0#16, 0#16, false⟩, ⟨1#16, 8#16, 0#16, true⟩] }

/-- P3's gathering: `GRID_INIT g1, 2, 1`, copies into tiles 0 and 1. -/
def spritePlan : GatherPlan := { width := 2#16, height := 1#16, slots := [0#16, 1#16] }

/-- P3's picture, as palette indices. -/
def spritePicture : List Nat :=
  [0,0,0,0,1,1,1,1,1,1,1,1,0,0,0,0,  0,0,1,1,2,2,2,2,2,2,2,2,1,1,0,0] ++
  [0,1,2,2,2,2,2,2,2,2,2,2,2,2,1,0,  1,2,2,2,2,2,2,2,2,2,2,2,2,2,2,1] ++
  [1,2,2,2,2,2,2,2,2,2,2,2,2,2,2,1,  0,1,2,2,2,2,2,2,2,2,2,2,2,2,1,0] ++
  [0,0,1,1,2,2,2,2,2,2,2,2,1,1,0,0,  0,0,0,0,1,1,1,1,1,1,1,1,0,0,0,0]

/-- The picture a layout gives by a route, where the layout succeeds. -/
def picture (route : CuratedRoute) : Option (List Color) :=
  match ((renderLayout spriteLayout 0xFF505050#32 route).run.run loaded).1 with
  | .ok image => some image.pixels
  | .error _ => none

theorem test_P3_gathered : picture (.gathered spritePlan) =
    some (spritePicture.map fun i => paletteColor (BitVec.ofNat 2 i)) := by decide +kernel
theorem test_P3_direct : picture .direct =
    some (spritePicture.map fun i => paletteColor (BitVec.ofNat 2 i)) := by decide +kernel

/-- P3's layouts rendered by both routes, the encoder failing or not. -/
def sprites (encoder : ImageEncoder) : Except HostError (List EncodedImage) :=
  ((exportCurated 0xFF505050#32 encoder [(spriteLayout, .direct), (spriteLayout, .gathered spritePlan)]
    []).run.run loaded).1

/-- A failed encode of the second image aborts the export with IO (R147). -/
theorem test_export_encode_fails : (match sprites fun done _ => done.length ≠ 1 with
    | .ok _ => false
    | .error e => decide (e = .io)) = true := by decide +kernel

/-- One mirrored block over the raster's first. -/
def smallLayout : CuratedLayout :=
  { base := 0#32, width := 8#16, height := 8#16, file := "one.png", records := [⟨0#16, 0#16, 0#16, true⟩] }

/-- One tile at byte 1, and one layout. -/
def smallJob : ExportJob :=
  { imageFile := "out.png"
    offset := 1
    byteLength := 16
    base := 0#32
    layouts := [(smallLayout, .direct)]
    fill := 0xFF000000#32 }

/-- What an export of `smallJob` has of the block once grid 0 is loaded: grid 0 is 16 x 1, the block not halted. -/
abbrev SmallReady (s : State) : Prop :=
  s.faulted = false ∧ s.params = Params.reference ∧ s.count .g0 = 16

/-- One witness for each reason; the third range ends one byte past the ROM. -/
theorem witness_ExportRefusesBadRange :
    (ExportJob.mk "out.png" 1 0 0#32 [] 0#32).byteLength = 0 ∧
      (ExportJob.mk "out.png" 1 17 0#32 [] 0#32).byteLength % 16 ≠ 0 ∧
      (List.replicate 16 0#8).length < smallJob.offset + smallJob.byteLength := by decide

/-- The load of `smallJob` from reset. -/
theorem smallLoad_run : ∃ t, (exportLoad (List.replicate 17 0#8) 1 1).run.run State.reset = (.ok (), t) ∧
    SmallReady t := by
  have h : (match (exportLoad (List.replicate 17 0#8) 1 1).run.run State.reset with
      | (.ok _, t) => decide (SmallReady t)
      | (.error _, _) => false) = true := by decide +kernel
  revert h
  generalize (exportLoad (List.replicate 17 0#8) 1 1).run.run State.reset = r
  obtain ⟨r, t⟩ := r
  cases r with
  | ok u => exact fun h => ⟨t, rfl, of_decide_eq_true h⟩
  | error e => exact fun h => absurd h (by simp)

/-- A draw of `smallJob` runs, and makes its block written. -/
theorem smallDraw_run {s : State} {ti dx dy : BitVec 16} {m : Bool} (h : SmallReady s)
    (hd : decode (encode (.drawTile .g0 ti dx dy m)) = .ok (.drawTile .g0 ti dx dy m))
    (hw : Drawable s .g0 ti dx dy) :
    ∃ r t, (sendOk (.drawTile .g0 ti dx dy m)).run.run s = (.ok r, t) ∧ SmallReady t ∧ SameCanvasRegs s t ∧
      ∀ a, InBlock s dx dy a ∨ s.canvasWord a ≠ none → t.canvasWord a ≠ none := by
  have h1 := exec_draw (mirror := m) h.1 hw
  refine ⟨_, _, sendOk_run (r := ⟨.ok, 0#32, 0#128⟩) hd h.1 h1 (by simp [effectOf]) rfl,
    ⟨by simp [h.1], by simp [h.2.1], ?_⟩,
    ⟨canvasBase_draw .., canvasWidth_draw .., canvasHeight_draw ..⟩, ?_⟩
  · rw [count_congr (draw_grid s .g0 ti dx dy m)]; exact h.2.2
  · intro a ha
    by_cases hb : InBlock s dx dy a
    · exact draw_ne_none _ _ _ _ _ _ hb
    · rw [draw_other _ _ _ _ _ _ hb]; exact ha.resolve_left hb

theorem smallBase_run {s : State} (hs : SmallReady s) : (sendOk (.setCanvasBase 0#32)).run.run s =
    (.ok ⟨.ok, 0#32, 0#128⟩, effectOf (.setCanvasBase 0#32) s) :=
  sendOk_run (by decide) hs.1 (exec_done hs.1 rfl) rfl rfl

theorem smallDim_run {s : State} (w h : BitVec 16) (hs : SmallReady s)
    (hd : decode (encode (.setCanvasDim w h)) = .ok (.setCanvasDim w h)) : (sendOk (.setCanvasDim w h)).run.run s =
    (.ok ⟨.ok, 0#32, 0#128⟩, effectOf (.setCanvasDim w h) s) :=
  sendOk_run hd hs.1 (exec_done hs.1 rfl) rfl rfl

/-- The canvas at word 0 with these dimensions, ready for draws of grid 0. -/
abbrev SmallCanvas (w h : BitVec 16) (s : State) : Prop :=
  SmallReady s ∧ s.canvasBase = 0#32 ∧ s.canvasWidth = w ∧ s.canvasHeight = h

/-- The draw of block `k` of the raster's one row. -/
abbrev rowDraw (k : Nat) : Instr :=
  .drawTile .g0 (BitVec.ofNat 16 (0 * fixedTileWidth + k)) (BitVec.ofNat 16 (k * 8)) (BitVec.ofNat 16 (0 * 8)) false

/-- The raster render of `smallJob`: the row of 16 blocks is drawn, every word of it is written. -/
theorem smallRender_run {s : State} (hs : SmallReady s) :
    ∃ im t, (exportRender 0#32 1).run.run s = (.ok im, t) ∧ SmallReady t ∧
      ∀ a, a < 1024 → t.canvasWord a ≠ none := by
  have hdec : ∀ k ∈ List.range 16, decode (encode (rowDraw k)) = .ok (rowDraw k) := by decide
  have hnum : ∀ k ∈ List.range 16, (BitVec.ofNat 16 (0 * fixedTileWidth + k)).toNat = k ∧
      (BitVec.ofNat 16 (k * 8)).toNat = k * 8 := by decide
  have hrow : ∀ u, SmallCanvas 128#16 8#16 u → ∃ v, ((List.range fixedTileWidth).forM fun tx => do
      let _ ← sendOk (.drawTile .g0 (← field16 (0 * fixedTileWidth + tx)) (← field16 (tx * 8))
        (← field16 (0 * 8)) false) : HostProc Unit).run.run u = (.ok (), v) ∧
      SmallCanvas 128#16 8#16 v ∧ ∀ a, a < 1024 → a % 128 / 8 ∉ [] → v.canvasWord a ≠ none := by
    intro u hu
    refine hostProc_forM_run (fun rest v => SmallCanvas 128#16 8#16 v ∧
      ∀ a, a < 1024 → a % 128 / 8 ∉ rest → v.canvasWord a ≠ none) ⟨hu, fun a ha hn => ?_⟩ ?_
    · exact absurd (List.mem_range.mpr (show a % 128 / 8 < 16 by omega)) hn
    · rintro k rest v hk ⟨⟨h1, h2, h3, h4⟩, h5⟩
      have hk16 := List.mem_range.mp hk
      obtain ⟨e1, e2⟩ := hnum k hk
      obtain ⟨r, w, h6, h7, ⟨h8, h9, h10⟩, h11⟩ := smallDraw_run h1 (hdec k hk)
        ⟨by rw [e1, h1.2.2]; exact hk16, by rw [h2, h3, h4, h1.2.1]; decide,
          by rw [e2, h3, show (128#16).toNat = 128 from rfl]; simp only [fixedTileWidth] at hk16; omega,
          by rw [h4]; decide⟩
      refine ⟨w, ?_, ⟨h7, h8.trans h2, h9.trans h3, h10.trans h4⟩, fun a ha hn => h11 a ?_⟩
      · rw [hostProc_bind_run (field16_run (by simp only [fixedTileWidth] at *; omega)),
          hostProc_bind_run (field16_run (by simp only [fixedTileWidth] at *; omega)),
          hostProc_bind_run (field16_run (by decide)),
          hostProc_bind_run h6]
        rfl
      · by_cases he : a % 128 / 8 = k
        · refine .inl ⟨a % 8, a / 128, by omega, by omega, ?_⟩
          simp only [State.drawAddress, h2, h3, e2, show (0#32).toNat = 0 from rfl,
            show (128#16).toNat = 128 from rfl, show (BitVec.ofNat 16 (0 * 8)).toNat = 0 from rfl]
          omega
        · exact .inr (h5 a ha (by simp [he, hn]))
  simp only [exportRender]
  rw [hostProc_bind_run (smallBase_run hs), hostProc_bind_run (field16_run (by decide)),
    hostProc_bind_run (field16_run (by decide)),
    hostProc_bind_run (smallDim_run (s := effectOf (.setCanvasBase 0#32) s) _ _ hs (by decide))]
  obtain ⟨v, h1, h2, h3⟩ := hrow
    (effectOf (.setCanvasDim 128#16 8#16) (effectOf (.setCanvasBase 0#32) s)) ⟨hs, rfl, rfl, rfl⟩
  have h4 := (hostProc_bind_run h1).trans (rfl : (pure () : HostProc Unit).run.run v = (.ok (), v))
  obtain ⟨pixels, t, h5, a, rfl⟩ := readCanvas_run (base := 0) (n := 1024) (s := v)
    (by rw [h2.1.2.1]; decide) fun k hk => by rw [Nat.zero_add]; exact h3 k hk (by simp)
  exact ⟨_, { v with answer := a },
    (hostProc_bind_run (a := ()) (t := v) h4).trans ((hostProc_bind_run h5).trans rfl),
    h2.1, fun a ha => h3 a ha (by simp)⟩

/-- The layout of `smallJob`, over a canvas written or not. -/
theorem smallLayout_run {s : State} (hs : SmallReady s) :
    ∃ im t, (drawLayout smallLayout 0xFF000000#32 .g0).run.run s = (.ok im, t) := by
  simp only [drawLayout, smallLayout]
  rw [hostProc_bind_run (smallBase_run hs),
    hostProc_bind_run (smallDim_run (s := effectOf (.setCanvasBase 0#32) s) _ _ hs (by decide))]
  obtain ⟨u, h1, h2⟩ : ∃ u, ((List.range 64).forM fun k => writeWord ((0#32).toNat + k) 0xFF000000#32 :
      HostProc Unit).run.run (effectOf (.setCanvasDim 8#16 8#16) (effectOf (.setCanvasBase 0#32) s)) = (.ok (), u) ∧
      SmallCanvas 8#16 8#16 u := by
    refine hostProc_forM_run (fun _ v => SmallCanvas 8#16 8#16 v) ⟨hs, rfl, rfl, rfl⟩ fun k rest v hk hv => ?_
    have hk := List.mem_range.mp hk
    have hp : ∀ k, k < 64 → (0#32).toNat + k < Params.reference.canvasWords := by decide
    exact ⟨_, writeWord_run (by rw [hv.1.2.1]; exact hp k hk) _, hv⟩
  obtain ⟨r, w, h3, h4, -, h5⟩ := smallDraw_run (ti := 0#16) (dx := 0#16) (dy := 0#16) (m := true) h2.1 (by decide)
    ⟨by rw [h2.1.2.2]; decide, by rw [h2.2.1, h2.2.2.1, h2.2.2.2, h2.1.2.1]; decide, by rw [h2.2.2.1]; decide,
      by rw [h2.2.2.2]; decide⟩
  obtain ⟨pixels, t, h6, -⟩ := readCanvas_run (base := 0) (n := 64) (s := w) (by rw [h4.2.1]; decide) fun k hk =>
    h5 _ (.inl ⟨k % 8, k / 8, by omega, by omega, by
      simp only [State.drawAddress, h2.2.1, h2.2.2.1, show (0#32).toNat = 0 from rfl,
        show (8#16).toNat = 8 from rfl, show (0#16).toNat = 0 from rfl]
      omega⟩)
  refine ⟨_, t, (hostProc_bind_run h1).trans
    (Eq.trans (hostProc_bind_run (a := ()) (t := w) ?_) ((hostProc_bind_run h6).trans rfl))⟩
  exact (hostProc_bind_run (a := ()) (t := w) ((hostProc_bind_run h3).trans rfl)).trans rfl

/-- An export from reset that succeeds, with a curated layout. -/
theorem witness_ExportEncodesEveryImageInOrder : ∃ out t,
    (exportRom (some (List.replicate 17 0#8)) smallJob fun _ _ => true).run.run State.reset = (.ok out, t) := by
  obtain ⟨u, h1, hu⟩ := smallLoad_run
  obtain ⟨im, v, h2, hv, -⟩ := smallRender_run hu
  obtain ⟨im', w, h3⟩ := smallLayout_run hv
  simp only [exportRom]
  rw [hostProc_bind_run (show (get : HostProc State).run.run State.reset = (.ok State.reset, State.reset) from rfl)]
  have h0 : (checkFormat (exportChecks State.reset.params (List.replicate 17 0#8).length smallJob.offset
      smallJob.byteLength smallJob.base)).run.run State.reset = (.ok (), State.reset) := rfl
  rw [hostProc_bind_run h0]
  exact ⟨_, w, (hostProc_bind_run h1).trans ((hostProc_bind_run h2).trans
    ((hostProc_bind_run (t := v) rfl).trans ((hostProc_bind_run h3).trans rfl)))⟩

end Sys2Proof.Tests
end

section
/-! The zero tile, a grid at reset, and the state after reset (spec/10_state.md R37). -/

namespace Sys2Proof.Machine

/-! ### The zero tile, which every slot an empty tile storage does not list holds -/

@[simp] theorem tileStore_tile_nil (n : Nat) : TileStore.tile [] n = Tile.zero := rfl

@[simp] theorem rawByte_zero (b : Nat) : rawByte Tile.zero.raw b = 0#8 := by
  by_cases h : b < 16 <;> simp [rawByte, Tile.zero, h]

@[simp] theorem palAt_zero (x y : Nat) : palAt Tile.zero.pal x y = 0#2 := by
  by_cases hy : y < 8
  · by_cases hx : x < 8 <;> simp [palAt, Tile.zero, hx, hy]
  · simp [palAt, Tile.zero, hy]

/-! ### A grid at reset -/

section
variable {s : State} {g : GridId}

theorem count_of_grid_reset (h : s.grid g = Grid.reset) : s.count g = 0 := by
  simp [State.count, Grid.count, h, Grid.reset]

theorem tile_of_grid_reset (h : s.grid g = Grid.reset) (n : Nat) : s.tile g n = Tile.zero := by
  simp [State.tile, h, Grid.reset]

theorem rawByte_of_grid_reset (h : s.grid g = Grid.reset) (n b : Nat) : rawByte (s.raw g n) b = 0#8 := by
  simp [State.raw, tile_of_grid_reset h]

theorem palAt_of_grid_reset (h : s.grid g = Grid.reset) (n x y : Nat) : palAt (s.pal g n) x y = 0#2 := by
  simp [State.pal, tile_of_grid_reset h]

end

/-! ### The state at power-up and the state a reset by the host leaves -/

@[simp] theorem resetWith_grid (p : Params) (g : GridId) : (State.resetWith p).grid g = Grid.reset := by
  cases g <;> rfl

@[simp] theorem resetWith_canvasWord (p : Params) (a : Nat) : (State.resetWith p).canvasWord a = none := rfl

@[simp] theorem applyReset_canvasWord (s : State) (a : Nat) : s.applyReset.canvasWord a = s.canvasWord a := rfl

theorem hostAct_reset_next {s t : State} : hostAct .reset s = .next t ↔ s.applyReset = t :=
  iff_of_eq (Host.Outcome.next.injEq ..)

/-- The block, whole, is at reset: both grids, the canvas registers and the fault state. -/
def State.BlockAtReset (s : State) : Prop :=
  (∀ g, s.grid g = Grid.reset) ∧ s.canvasBase = 0#32 ∧ s.canvasWidth = 0#16 ∧ s.canvasHeight = 0#16 ∧
    s.faulted = false ∧ s.faultCause = 0#4

theorem resetWith_blockAtReset (p : Params) : (State.resetWith p).BlockAtReset :=
  ⟨resetWith_grid p, rfl, rfl, rfl, rfl, rfl⟩

theorem applyReset_blockAtReset (s : State) : s.applyReset.BlockAtReset :=
  ⟨applyReset_grid s, rfl, rfl, rfl, rfl, rfl⟩

/-- `MASK[x] = 0x80 >> x` (spec/10_state.md R24). -/
theorem maskTable_eq_shift (x : Fin 8) : maskTable[x] = 0x80#8 >>> x.val := by
  revert x; decide

end Sys2Proof.Machine

open Sys2Proof Sys2Proof.Machine

/-- Settles O49: power-up and an applied reset both leave the two grids at reset and the other block state clear; only
power-up clears canvas memory; the tables are constants. -/
theorem resetSetsTheResetState : Obligations.ResetSetsTheResetState := by
  refine ⟨?values, resetWith_canvasWord, ?canvas, maskTable_eq_shift, rfl⟩
  case values =>
    intro t ht
    have hreset : t.BlockAtReset := by
      obtain ⟨p, rfl⟩ | ⟨s, hs⟩ := ht
      · exact resetWith_blockAtReset p
      · exact hostAct_reset_next.mp hs ▸ applyReset_blockAtReset s
    obtain ⟨hgrid, hregs⟩ := hreset
    exact ⟨fun g => ⟨congrArg Grid.xc (hgrid g), congrArg Grid.yc (hgrid g), count_of_grid_reset (hgrid g)⟩,
      fun g n b _ => rawByte_of_grid_reset (hgrid g) n b,
      fun g n x y _ _ => palAt_of_grid_reset (hgrid g) n x y, hregs⟩
  case canvas =>
    intro s t hs
    exact hostAct_reset_next.mp hs ▸ applyReset_canvasWord s

end

section
/-! Canvas memory and the commands: which command writes it, what a draw leaves in it, and that no command reads it
(spec/20_memory.md R49). -/

namespace Sys2Proof.Machine

/-! ### The grids over another canvas memory -/

@[simp] theorem with_canvas_raw (s : State) (m : Memory) (g : GridId) (n : Nat) :
    ({ s with canvas := m } : State).raw g n = s.raw g n :=
  raw_congr (with_canvas_grid s · m) g n

@[simp] theorem with_canvas_pal (s : State) (m : Memory) (g : GridId) (n : Nat) :
    ({ s with canvas := m } : State).pal g n = s.pal g n :=
  pal_congr (with_canvas_grid s · m) g n

@[simp] theorem with_canvas_count (s : State) (m : Memory) (g : GridId) :
    ({ s with canvas := m } : State).count g = s.count g :=
  count_congr (with_canvas_grid s · m) g

/-! ### Several writes -/

/-- The last write to a word decides: what the writes leave in a word they name is one of the values they name for it,
whatever memory held before. -/
theorem read_writeAll_named {ws : List (Nat × Color)} {a : Nat} {v : Color} (h : (a, v) ∈ ws) :
    ∃ w, (a, w) ∈ ws ∧ ∀ m, Memory.read (Memory.writeAll m ws) a = some w := by
  induction ws generalizing v with
  | nil => exact absurd h List.not_mem_nil
  | cons p ws ih =>
    by_cases hlater : ∃ u, (a, u) ∈ ws
    · obtain ⟨u, hu⟩ := hlater
      obtain ⟨w, hw, hread⟩ := ih hu
      exact ⟨w, List.mem_cons_of_mem _ hw, fun m => hread _⟩
    · obtain rfl : (a, v) = p := (List.mem_cons.mp h).resolve_right fun hv => hlater ⟨v, hv⟩
      refine ⟨v, List.mem_cons_self, fun m => ?_⟩
      rw [Memory.writeAll, read_writeAll_other _ _ _ ?_, read_write, if_pos rfl]
      rintro ⟨b, u⟩ hq rfl
      exact hlater ⟨u, hq⟩

/-! ### The block of a draw -/

/-- Pixels of a block that fits the canvas width have words of their own (spec/43_compositor.md R132). -/
theorem drawAddress_inj {s : State} {dx dy : BitVec 16} {x y x' y' : Nat} (hx : x < 8) (hx' : x' < 8)
    (hw : dx.toNat + 8 ≤ s.canvasWidth.toNat) (h : s.drawAddress dx dy x y = s.drawAddress dx dy x' y') :
    x = x' ∧ y = y' := by
  have hpos : (dx.toNat + x) + (dy.toNat + y) * s.canvasWidth.toNat =
      (dx.toNat + x') + (dy.toNat + y') * s.canvasWidth.toNat := by
    unfold State.drawAddress at h
    omega
  have hcol : dx.toNat + x = dx.toNat + x' := by
    have := congrArg (· % s.canvasWidth.toNat) hpos
    simpa only [Nat.add_mul_mod_self_right, Nat.mod_eq_of_lt (show dx.toNat + x < s.canvasWidth.toNat by omega),
      Nat.mod_eq_of_lt (show dx.toNat + x' < s.canvasWidth.toNat by omega)] using this
  have hrow : dy.toNat + y = dy.toNat + y' :=
    Nat.eq_of_mul_eq_mul_right (by omega : 0 < s.canvasWidth.toNat) (by omega)
  omega

/-- The words of the 8 x 8 block at `(dx, dy)`, in the order a draw writes them. -/
def State.blockWords (s : State) (dx dy : BitVec 16) : List Nat :=
  blockPixels.map fun p => s.drawAddress dx dy p.1 p.2

theorem blockWords_length (s : State) (dx dy : BitVec 16) : (s.blockWords dx dy).length = 64 := by
  rw [State.blockWords, List.length_map]
  rfl

theorem mem_blockWords {s : State} {dx dy : BitVec 16} {a : Nat} : a ∈ s.blockWords dx dy ↔ InBlock s dx dy a := by
  simp only [State.blockWords, List.mem_map, Prod.exists, mem_blockPixels, and_assoc, InBlock, eq_comm (a := a)]

theorem blockWords_nodup {s : State} {dx dy : BitVec 16} (hw : dx.toNat + 8 ≤ s.canvasWidth.toNat) :
    (s.blockWords dx dy).Nodup := by
  refine List.Nodup.map_on ?_ (by decide : blockPixels.Nodup)
  rintro ⟨x, y⟩ hp ⟨x', y'⟩ hp' h
  obtain ⟨hx, -⟩ := mem_blockPixels.mp hp
  obtain ⟨hx', -⟩ := mem_blockPixels.mp hp'
  obtain ⟨rfl, rfl⟩ := drawAddress_inj hx hx' hw h
  rfl

/-- The words of a draw and their values come from the grids and the canvas registers. -/
theorem drawWords_canvas_swap (s : State) (m : Memory) (g : GridId) (t : Nat) (dx dy : BitVec 16) (mirror : Bool) :
    ({ s with canvas := m } : State).drawWords g t dx dy mirror = s.drawWords g t dx dy mirror := by
  simp only [State.drawWords, State.drawAddress, with_canvas_pal]

/-- A draw leaves the same palette colour in a word of its block whatever canvas memory it runs over. -/
theorem draw_block_word {s : State} {dx dy : BitVec 16} {a : Nat} (h : InBlock s dx dy a) (g : GridId)
    (ti : BitVec 16) (mirror : Bool) : ∃ c : PalIndex, ∀ m : Memory,
      (effectOf (.drawTile g ti dx dy mirror) { s with canvas := m }).canvasWord a = some (paletteColor c) := by
  obtain ⟨x, y, hx, hy, rfl⟩ := h
  obtain ⟨w, hw, hread⟩ := read_writeAll_named
    (mem_drawWords.mpr ⟨x, y, hx, hy, rfl, rfl⟩ : _ ∈ s.drawWords g ti.toNat dx dy mirror)
  obtain ⟨x', y', -, -, -, rfl⟩ := mem_drawWords.mp hw
  refine ⟨palAt (s.pal g ti.toNat) (sourceColumn mirror x') y', fun m => ?_⟩
  rw [canvasWord_draw, drawWords_canvas_swap]
  exact hread m

/-! ### Any command over another canvas memory -/

theorem checksOf_canvas_swap (i : Instr) (s : State) (m : Memory) :
    checksOf i { s with canvas := m } = checksOf i s := by
  cases i <;> simp only [checksOf, State.checkTile, State.checkCapacity, State.checkTileCoord, State.checkCanvasFits,
    State.checkBlockFits, with_canvas_count, with_canvas_grid]

theorem initGrid_canvas_swap (s : State) (m : Memory) (g : GridId) (xc yc : BitVec 16) :
    ({ s with canvas := m } : State).initGrid g xc yc = { s.initGrid g xc yc with canvas := m } := by
  cases g <;> rfl

theorem setPal_canvas_swap (s : State) (m : Memory) (g : GridId) (n : Nat) (p : PalTile) :
    ({ s with canvas := m } : State).setPal g n p = { s.setPal g n p with canvas := m } := by
  cases g <;> rfl

theorem setRaw_canvas_swap (s : State) (m : Memory) (g : GridId) (n : Nat) (r : RawTile) :
    ({ s with canvas := m } : State).setRaw g n r = { s.setRaw g n r with canvas := m } := by
  cases g <;> rfl

/-- A command that is no DRAW_TILE does over another canvas memory what it does over this one, and leaves it. -/
theorem effectOf_canvas_swap {i : Instr} (h : i.op ≠ .drawTile) (s : State) (m : Memory) :
    effectOf i { s with canvas := m } = { effectOf i s with canvas := m } := by
  cases i with
  | drawTile => exact absurd rfl h
  | colorToPal color =>
    simp only [effectOf, State.respondColorIndex]
    split <;> rfl
  | _ => simp [effectOf, State.respond, setPal_canvas_swap, setRaw_canvas_swap, initGrid_canvas_swap]

theorem effectOf_canvas {i : Instr} (h : i.op ≠ .drawTile) (s : State) : (effectOf i s).canvas = s.canvas := by
  have hswap : effectOf i s = { effectOf i s with canvas := s.canvas } := effectOf_canvas_swap h s s.canvas
  rw [hswap]

/-! ### The words a command draws -/

theorem eq_drawTile_of_op {i : Instr} (h : i.op = .drawTile) :
    ∃ g ti dx dy mirror, i = .drawTile g ti dx dy mirror := by
  cases i with
  | drawTile g ti dx dy mirror => exact ⟨g, ti, dx, dy, mirror, rfl⟩
  | _ => cases h

theorem not_drawsWord_of_op {i : Instr} (h : i.op ≠ .drawTile) (s t : State) (a : Nat) : ¬ DrawsWord i s t a := by
  rintro ⟨-, g, ti, dx, dy, mirror, rfl, -⟩
  exact h rfl

theorem not_drawsWord_of_faulted {t : State} (h : t.faulted = true) (i : Instr) (s : State) (a : Nat) :
    ¬ DrawsWord i s t a :=
  fun hdraws => Bool.false_ne_true (hdraws.1.symm.trans h)

theorem drawsWord_drawTile_iff {s t : State} (hf : t.faulted = false) {g : GridId} {ti dx dy : BitVec 16}
    {mirror : Bool} {a : Nat} : DrawsWord (.drawTile g ti dx dy mirror) s t a ↔ InBlock s dx dy a := by
  constructor
  · rintro ⟨-, g', ti', dx', dy', mirror', heq, hblock⟩
    cases heq
    exact hblock
  · exact fun hblock => ⟨hf, g, ti, dx, dy, mirror, rfl, hblock⟩

/-- `m'` is `m` with the words that `i` draws on its way from `s` to `t` as `t` has them. -/
def DrawnOver (i : Instr) (s t : State) (m m' : Memory) : Prop :=
  ∀ a, (DrawsWord i s t a → m'.read a = t.canvasWord a) ∧ (¬ DrawsWord i s t a → m'.read a = m.read a)

theorem drawnOver_self {i : Instr} {s t : State} (h : ∀ a, ¬ DrawsWord i s t a) (m : Memory) :
    DrawnOver i s t m m :=
  fun a => ⟨fun hdraws => absurd hdraws (h a), fun _ => rfl⟩

/-- Over another canvas memory `m` an effect is the same but for canvas memory, which is `m` with the effect's words
drawn over it. -/
theorem effectOf_drawnOver (i : Instr) {s : State} (hf : s.faulted = false) (m : Memory) :
    ∃ m', effectOf i { s with canvas := m } = { effectOf i s with canvas := m' } ∧
      DrawnOver i s (effectOf i s) m m' := by
  by_cases hop : i.op = .drawTile
  · obtain ⟨g, ti, dx, dy, mirror, rfl⟩ := eq_drawTile_of_op hop
    have hiff (a : Nat) : DrawsWord (.drawTile g ti dx dy mirror) s (effectOf (.drawTile g ti dx dy mirror) s) a ↔
        InBlock s dx dy a := drawsWord_drawTile_iff ((effectOf_faulted _ s).trans hf)
    refine ⟨_, draw_canvas_swap s g ti dx dy mirror m, fun a => ⟨fun hdraws => ?_, fun hdraws => ?_⟩⟩
    · obtain ⟨c, hc⟩ := draw_block_word ((hiff a).mp hdraws) g ti mirror
      exact (hc m).trans (hc s.canvas).symm
    · exact draw_other { s with canvas := m } g ti dx dy mirror (mt (hiff a).mpr hdraws)
  · exact ⟨m, effectOf_canvas_swap hop s m, drawnOver_self (not_drawsWord_of_op hop s _) m⟩

/-! ### What a command comes to -/

/-- No command reads canvas memory. -/
theorem exec_drawnOver {i : Instr} {s t : State} (h : exec i s = .next t) (m : Memory) :
    ∃ m', exec i { s with canvas := m } = .next { t with canvas := m' } ∧ DrawnOver i s t m m' := by
  rw [exec_eq, checksOf_canvas_swap]
  obtain ⟨hf, rfl⟩ | ⟨hf, c, hc, rfl⟩ | ⟨hf, hc, rfl⟩ := exec_cases h
  · exact ⟨m, runCommand_halted (s := { s with canvas := m }) hf _ _,
      drawnOver_self (not_drawsWord_of_faulted hf i s) m⟩
  · exact ⟨m, runCommand_fails (s := { s with canvas := m }) hf hc _,
      drawnOver_self (not_drawsWord_of_faulted rfl i s) m⟩
  · obtain ⟨m', heffect, hdrawn⟩ := effectOf_drawnOver i hf m
    exact ⟨m', heffect ▸ runCommand_done (s := { s with canvas := m }) hf hc _, hdrawn⟩

/-- A command that ends unfaulted passed its checks and took effect. -/
theorem exec_unfaulted {i : Instr} {s t : State} (h : exec i s = .next t) (hf : t.faulted = false) :
    firstFailing (checksOf i s) = none ∧ t = effectOf i s := by
  obtain ⟨hs, rfl⟩ | ⟨-, c, -, rfl⟩ | ⟨-, hc, rfl⟩ := exec_cases h
  · exact absurd (hf.symm.trans hs) Bool.false_ne_true
  · exact absurd hf.symm Bool.false_ne_true
  · exact ⟨hc, rfl⟩

/-- Only a DRAW_TILE that does not fault writes canvas memory. -/
theorem exec_canvas {i : Instr} {s t : State} (h : exec i s = .next t) (hno : i.op ≠ .drawTile ∨ t.faulted = true) :
    t.canvas = s.canvas := by
  obtain ⟨-, rfl⟩ | ⟨-, c, -, rfl⟩ | ⟨hf, -, rfl⟩ := exec_cases h
  · rfl
  · rfl
  · refine effectOf_canvas (hno.resolve_right fun ht => ?_) s
    exact absurd (hf.symm.trans ((effectOf_faulted i s).symm.trans ht)) Bool.false_ne_true

/-- The converse of `exec_draw`: the three checks say all that `Drawable` does. -/
theorem drawable_of_checks {s : State} {g : GridId} {ti dx dy : BitVec 16} {mirror : Bool}
    (h : firstFailing (checksOf (.drawTile g ti dx dy mirror) s) = none) : Drawable s g ti dx dy := by
  have hpass := firstFailing_eq_none.mp h
  simp only [checksOf, State.checkTile, State.checkCanvasFits, State.checkBlockFits, List.forall_mem_cons,
    Bool.or_eq_false_iff, decide_eq_false_iff_not, Nat.not_le, Nat.not_lt] at hpass
  obtain ⟨htile, hcanvas, ⟨hwidth, hheight⟩, -⟩ := hpass
  exact ⟨htile, hcanvas, hwidth, hheight⟩

/-- A word of the block of a draw holds a palette colour after it. -/
theorem draw_paletteColor {s : State} {dx dy : BitVec 16} {a : Nat} (h : InBlock s dx dy a) (g : GridId)
    (ti : BitVec 16) (mirror : Bool) :
    ∃ c : PalIndex, (effectOf (.drawTile g ti dx dy mirror) s).canvasWord a = some (paletteColor c) :=
  (draw_block_word h g ti mirror).imp fun _ hc => hc s.canvas

end Sys2Proof.Machine

open Sys2Proof Sys2Proof.Machine

/-- Settles O47: no command's checks or effect depend on canvas memory, and the words of a draw that passes its checks
are the 64 distinct words of its block. -/
theorem blockNeverReadsCanvasMemory : Obligations.BlockNeverReadsCanvasMemory := by
  intro s t i h
  refine ⟨exec_drawnOver h, exec_canvas h, ?draw⟩
  rintro g ti dx dy mirror rfl hf
  obtain ⟨hc, rfl⟩ := exec_unfaulted h hf
  obtain ⟨-, -, hwidth, -⟩ := drawable_of_checks hc
  exact ⟨s.blockWords dx dy, blockWords_length s dx dy, blockWords_nodup hwidth, fun _ => mem_blockWords,
    fun _ ha => draw_paletteColor (mem_blockWords.mp ha) g ti mirror,
    fun _ ha => draw_other s g ti dx dy mirror (mt mem_blockWords.mpr ha)⟩

end

section
/-! Words that are no commands: which fault a word's decode ends in, and what issuing it then does
(spec/30_encoding.md R69-R72). -/

namespace Sys2Proof

/-! ### The three outcomes of the decoder -/

/-- Once a word's `OPC` names a row, that row's mask alone decides. -/
theorem decode_of_opc {r : Request} {op : Op} (h : opcField r.cmd = op.opc) :
    decode r = if r.cmd &&& op.mask = op.pattern then .ok (op.instr r) else .error .reservedNonzero := by
  simp [decode, h]

theorem decode_eq_illegalOpcode_iff {r : Request} :
    decode r = .error .illegalOpcode ↔ ∀ op : Op, opcField r.cmd ≠ op.opc := by
  constructor
  · intro hdecode op hopc
    rw [decode_of_opc hopc] at hdecode
    split at hdecode <;> cases hdecode
  · intro hopc
    simp [decode, opOfOpc_eq_none.mpr hopc]

theorem decode_eq_reservedNonzero_iff {r : Request} :
    decode r = .error .reservedNonzero ↔ ∃ op : Op, opcField r.cmd = op.opc ∧ r.cmd &&& op.mask ≠ op.pattern := by
  constructor
  · intro hdecode
    have hmap : ∃ op : Op, opcField r.cmd = op.opc := by
      by_contra hnone
      rw [decode_eq_illegalOpcode_iff.mpr (not_exists.mp hnone)] at hdecode
      cases hdecode
    obtain ⟨op, hopc⟩ := hmap
    refine ⟨op, hopc, fun hmask => ?_⟩
    rw [decode_of_mask op hmask] at hdecode
    cases hdecode
  · rintro ⟨op, hopc, hmask⟩
    rw [decode_of_opc hopc, if_neg hmask]

/-- The rows of the opcode map have distinct opcodes. -/
theorem opc_injective {op op' : Op} (h : op.opc = op'.opc) : op = op' :=
  Option.some.inj (by rw [← opOfOpc_opc op, h, opOfOpc_opc])

/-- A word meets the mask of one row at most. -/
theorem op_unique_of_mask {c : BitVec 64} {op op' : Op} (h : c &&& op.mask = op.pattern)
    (h' : c &&& op'.mask = op'.pattern) : op = op' :=
  opc_injective ((opcField_of_mask op h).symm.trans (opcField_of_mask op' h'))

theorem decode_ok_iff {r : Request} :
    (∃ i, decode r = .ok i) ↔ ∃! op : Op, r.cmd &&& op.mask = op.pattern := by
  constructor
  · rintro ⟨i, hdecode⟩
    obtain ⟨op, -, hmask, -⟩ := decode_ok hdecode
    exact ⟨op, hmask, fun _ hmask' => op_unique_of_mask hmask' hmask⟩
  · rintro ⟨op, hmask, -⟩
    exact ⟨op.instr r, decode_of_mask op hmask⟩

/-! ### Reserved fields: those spec/30_encoding.md R69 lists, read off the table of R68 -/

/-- The `len` bits of the word from bit `start` on are reserved in this row: the mask has them all and the pattern
none. -/
abbrev Op.Reserves (op : Op) (start len : Nat) : Prop :=
  op.mask.extractLsb' start len = BitVec.allOnes len ∧ op.pattern.extractLsb' start len = 0#len

/-- A word that meets its row's mask has the row's reserved fields zero. -/
theorem Op.Reserves.field_eq_zero {op : Op} {start len : Nat} (hres : op.Reserves start len) {c : BitVec 64}
    (hmask : c &&& op.mask = op.pattern) : c.extractLsb' start len = 0#len := by
  obtain ⟨hones, hzero⟩ := hres
  calc c.extractLsb' start len
      = (c &&& op.mask).extractLsb' start len := by rw [BitVec.extractLsb'_and, hones, BitVec.and_allOnes]
    _ = 0#len := by rw [hmask, hzero]

theorem Op.Reserves.bit_ne_true {op : Op} {k : Nat} (hres : op.Reserves k 1) {c : BitVec 64}
    (hmask : c &&& op.mask = op.pattern) : c.getLsbD k ≠ true := by
  simpa using congrArg (fun field : BitVec 1 => field.getLsbD 0) (hres.field_eq_zero hmask)

theorem reserves_rsv (op : Op) : op.Reserves 48 5 := by
  cases op <;> decide

theorem reserves_s {op : Op} : op ≠ .copyPal → op.Reserves 54 1 := by
  cases op <;> decide

theorem reserves_m {op : Op} : op ≠ .drawTile → op.Reserves 53 1 := by
  cases op <;> decide

theorem reserves_g {op : Op} :
    op ∈ [.palToColor, .colorToPal, .setCanvasBase, .setCanvasDim] → op.Reserves 55 1 := by
  cases op <;> decide

theorem reserves_ti {op : Op} :
    op ∈ [.palToColor, .colorToPal, .setCanvasBase, .gridInit, .tileIndex, .setCanvasDim] → op.Reserves 32 16 := by
  cases op <;> decide

theorem reserves_v_getPal : Op.getPal.Reserves 16 8 := by decide

/-! ### Words whose `OPC` is outside the map -/

theorem opc_mem_map (op : Op) : op.opc ∈ [0x10#8, 0x11#8, 0x20#8, 0x21#8, 0x30#8, 0x31#8, 0x32#8, 0x33#8, 0x34#8,
    0x35#8, 0x36#8, 0x37#8, 0x38#8, 0x40#8, 0x41#8, 0x42#8] := by
  cases op <;> decide

theorem opcField_zero_ne_opc (op : Op) : opcField 0#64 ≠ op.opc := by
  cases op <;> decide

end Sys2Proof

namespace Sys2Proof.Machine

/-- Issuing a word that is no command is fault entry and nothing else. -/
theorem issue_of_decode_error {s : State} {r : Request} {e : DecodeFault} (hf : s.faulted = false)
    (hdecode : decode r = .error e) :
    ∃ t, issue r s = .next t ∧ FaultEntered s t (causeOfDecodeFault e).code := by
  refine ⟨s.enterFault (causeOfDecodeFault e), ?_, rfl⟩
  simp [issue, hf, hdecode]

end Sys2Proof.Machine

open Sys2Proof Sys2Proof.Machine

/-- Settles O5: each of the decoder's three outcomes is told by the word's `OPC` and its row's mask. -/
theorem everyWordIsOneOfThree : Obligations.EveryWordIsOneOfThree :=
  fun _ => ⟨decode_ok_iff, decode_eq_reservedNonzero_iff, decode_eq_illegalOpcode_iff⟩

/-- Settles O6: an `OPC` outside the map, as the all-zero word's is, is no row's, so the decoder refuses the word. -/
theorem illegalOpcodeFaults : Obligations.IllegalOpcodeFaults := by
  intro s cmd wdata hf hillegal
  have hopc (op : Op) : opcField cmd ≠ op.opc := by
    obtain hoff | rfl := hillegal
    · exact fun heq => hoff (heq ▸ opc_mem_map op)
    · exact opcField_zero_ne_opc op
  have hdecode : decode ⟨cmd, wdata⟩ = .error .illegalOpcode := decode_eq_illegalOpcode_iff.mpr hopc
  exact issue_of_decode_error hf hdecode

/-- Settles O7: a word that met its row's mask would have every reserved field the rule lists zero. -/
theorem reservedBitFaults : Obligations.ReservedBitFaults := by
  intro s r op hf hopc hset
  refine issue_of_decode_error hf (decode_eq_reservedNonzero_iff.mpr ⟨op, hopc, fun hmask => ?_⟩)
  obtain hne | hrsv | ⟨hs, hop⟩ | ⟨hm, hop⟩ | ⟨hg, hop⟩ | ⟨hti, hop⟩ | ⟨hv, rfl⟩ := hset
  · exact hne hmask
  · exact hrsv ((reserves_rsv op).field_eq_zero hmask)
  · exact (reserves_s hop).bit_ne_true hmask hs
  · exact (reserves_m hop).bit_ne_true hmask hm
  · exact (reserves_g hop).bit_ne_true hmask hg
  · exact hti ((reserves_ti hop).field_eq_zero hmask)
  · exact hv (reserves_v_getPal.field_eq_zero hmask)

end

section
/-! The codec bit by bit: bit 0 of a palette index is the low plane's bit and bit 1 the high plane's, for `Decode` and
for `Encode` (spec/40_codec.md R81), so each undoes the other, in the functions and through a grid. -/

namespace Sys2Proof.Machine

/-! ### A palette index and its two bits -/

theorem palIndex_toNat_eq_bits (i : PalIndex) : i.toNat = (i.getLsbD 0).toNat + 2 * (i.getLsbD 1).toNat := by
  revert i; decide

theorem palIndex_and_one_ne_zero (i : PalIndex) : decide (i &&& 1#2 ≠ 0#2) = i.getLsbD 0 := by
  revert i; decide

theorem palIndex_and_two_ne_zero (i : PalIndex) : decide (i &&& 2#2 ≠ 0#2) = i.getLsbD 1 := by
  revert i; decide

theorem palIndex_of_bits_low (a b : Bool) :
    ((if a then 1#2 else 0#2) + (if b then 2#2 else 0#2) : PalIndex).getLsbD 0 = a := by
  revert a b; decide

theorem palIndex_of_bits_high (a b : Bool) :
    ((if a then 1#2 else 0#2) + (if b then 2#2 else 0#2) : PalIndex).getLsbD 1 = b := by
  revert a b; decide

/-! ### The two planes of `Decode` and of `Encode` -/

section Planes
variable {x y : Nat} (hx : x < 8) (hy : y < 8)
include hx hy

theorem decodeRaw_bit_low (r : RawTile) :
    (palAt (decodeRaw r) x y).getLsbD 0 = (rawByte r y).getLsbD (7 - x) := by
  rw [palAt_decodeRaw r hx hy, palIndex_of_bits_low]

theorem decodeRaw_bit_high (r : RawTile) :
    (palAt (decodeRaw r) x y).getLsbD 1 = (rawByte r (8 + y)).getLsbD (7 - x) := by
  rw [palAt_decodeRaw r hx hy, palIndex_of_bits_high]

theorem encodePal_bit_low (p : PalTile) :
    (rawByte (encodePal p) y).getLsbD (7 - x) = (palAt p x y).getLsbD 0 := by
  rw [rawByte_encodePal_low p hy, palAt_lt p hx hy, ← palIndex_and_one_ne_zero]
  exact encodeRow_getLsbD p[y] 1#2 ⟨x, hx⟩

theorem encodePal_bit_high (p : PalTile) :
    (rawByte (encodePal p) (8 + y)).getLsbD (7 - x) = (palAt p x y).getLsbD 1 := by
  rw [rawByte_encodePal_high p hy, palAt_lt p hx hy, ← palIndex_and_two_ne_zero]
  exact encodeRow_getLsbD p[y] 2#2 ⟨x, hx⟩

/-- R81 for the decoder. -/
theorem palAt_decodeRaw_toNat (r : RawTile) : (palAt (decodeRaw r) x y).toNat =
    ((rawByte r y).getLsbD (7 - x)).toNat + 2 * ((rawByte r (8 + y)).getLsbD (7 - x)).toNat := by
  rw [palIndex_toNat_eq_bits, decodeRaw_bit_low hx hy, decodeRaw_bit_high hx hy]

/-- R81 for the encoder. -/
theorem palAt_toNat_eq_encodePal (p : PalTile) : (palAt p x y).toNat =
    ((rawByte (encodePal p) y).getLsbD (7 - x)).toNat +
      2 * ((rawByte (encodePal p) (8 + y)).getLsbD (7 - x)).toNat := by
  rw [palIndex_toNat_eq_bits, encodePal_bit_low hx hy, encodePal_bit_high hx hy]

end Planes

/-! ### Each undoes the other -/

/-- Bytes with the same bit in each of the 8 columns are equal: column `x` is bit `7 - x`. -/
theorem byte_ext_columns {v w : Byte} (h : ∀ x, x < 8 → v.getLsbD (7 - x) = w.getLsbD (7 - x)) : v = w := by
  refine BitVec.eq_of_getLsbD_eq fun k hk => ?_
  have hcol : 7 - (7 - k) = k := by omega
  simpa only [hcol] using h (7 - k) (by omega)

/-- Raw tiles with the same bits in both planes are equal. -/
theorem rawTile_ext_planes {r q : RawTile}
    (hlow : ∀ x y, x < 8 → y < 8 → (rawByte r y).getLsbD (7 - x) = (rawByte q y).getLsbD (7 - x))
    (hhigh : ∀ x y, x < 8 → y < 8 → (rawByte r (8 + y)).getLsbD (7 - x) = (rawByte q (8 + y)).getLsbD (7 - x)) :
    r = q := by
  refine rawTile_ext fun b hb => byte_ext_columns fun x hx => ?_
  by_cases hplane : b < 8
  · exact hlow x b hx hplane
  · obtain ⟨y, rfl⟩ := Nat.exists_eq_add_of_le (Nat.not_lt.mp hplane)
    exact hhigh x y hx (by omega)

theorem decodeRaw_encodePal (p : PalTile) : decodeRaw (encodePal p) = p :=
  palTile_ext fun _ _ hx hy => BitVec.eq_of_toNat_eq <|
    (palAt_decodeRaw_toNat hx hy (encodePal p)).trans (palAt_toNat_eq_encodePal hx hy p).symm

theorem encodePal_decodeRaw (r : RawTile) : encodePal (decodeRaw r) = r :=
  rawTile_ext_planes
    (fun _ _ hx hy => (encodePal_bit_low hx hy (decodeRaw r)).trans (decodeRaw_bit_low hx hy r))
    (fun _ _ hx hy => (encodePal_bit_high hx hy (decodeRaw r)).trans (decodeRaw_bit_high hx hy r))

/-! ### The two commands -/

section Commands
variable {s : State} {g : GridId} {ti : BitVec 16}

theorem exec_decodeTile (hf : s.faulted = false) (hti : ti.toNat < s.count g) :
    exec (.decodeTile g ti) s = .next (effectOf (.decodeTile g ti) s) :=
  exec_done hf (by simp [checksOf, checkTile_ok hti])

theorem exec_encodeTile (hf : s.faulted = false) (hti : ti.toNat < s.count g) :
    exec (.encodeTile g ti) s = .next (effectOf (.encodeTile g ti) s) :=
  exec_done hf (by simp [checksOf, checkTile_ok hti])

variable (s g ti)

theorem decodeTile_pal : (effectOf (.decodeTile g ti) s).pal g ti.toNat = decodeRaw (s.raw g ti.toNat) := by
  simp [effectOf]

theorem decodeTile_count (h : GridId) : (effectOf (.decodeTile g ti) s).count h = s.count h := by
  simp [effectOf]

theorem encodeTile_raw : (effectOf (.encodeTile g ti) s).raw g ti.toNat = encodePal (s.pal g ti.toNat) := by
  simp [effectOf]

theorem encodeTile_count (h : GridId) : (effectOf (.encodeTile g ti) s).count h = s.count h := by
  simp [effectOf]

end Commands

end Sys2Proof.Machine

open Sys2Proof Sys2Proof.Machine

/-- Settles O19: the two bits of a pixel's index are its column's bits of the two planes, for either function. -/
theorem paletteIndexIsLowPlusTwiceHigh : Obligations.PaletteIndexIsLowPlusTwiceHigh :=
  ⟨fun r _ _ hx hy => palAt_decodeRaw_toNat hx hy r, fun p _ _ hx hy => palAt_toNat_eq_encodePal hx hy p⟩

/-- Settles O20: R81 for the decoder over the encoded tile is R81 for the encoder. -/
theorem decodeAfterEncodeOfTile : Obligations.DecodeAfterEncodeOfTile := decodeRaw_encodePal

/-- Settles O21: each plane's bit goes into its bit of the index and comes back from it. -/
theorem encodeAfterDecodeOfTile : Obligations.EncodeAfterDecodeOfTile := encodePal_decodeRaw

/-- Settles O22: a decoded pixel of row `y` is a function of bytes `y` and `8 + y`. -/
theorem decodedRowDependsOnItsTwoBytes : Obligations.DecodedRowDependsOnItsTwoBytes := by
  intro r q y hy hlow hhigh x hx
  rw [palAt_decodeRaw r hx hy, palAt_decodeRaw q hx hy, hlow, hhigh]

/-- Settles O25: the first command leaves the tile there for the second, which reads what the first wrote and writes
back what the first read. -/
theorem codecRoundTripThroughTheGrid : Obligations.CodecRoundTripThroughTheGrid := by
  intro s g ti hf hti
  refine ⟨?encodeFirst, ?decodeFirst⟩
  case encodeFirst =>
    have hdecode := exec_decodeTile (s := effectOf (.encodeTile g ti) s) (g := g) (ti := ti)
      (by rwa [effectOf_faulted]) (by rwa [encodeTile_count])
    exact ⟨_, _, exec_encodeTile hf hti, hdecode, by rw [decodeTile_pal, encodeTile_raw, decodeRaw_encodePal]⟩
  case decodeFirst =>
    have hencode := exec_encodeTile (s := effectOf (.decodeTile g ti) s) (g := g) (ti := ti)
      (by rwa [effectOf_faulted]) (by rwa [decodeTile_count])
    exact ⟨_, _, exec_decodeTile hf hti, hencode, by rw [encodeTile_raw, decodeTile_pal, encodePal_decodeRaw]⟩

end

section
/-! The palette's two lookups: the index of a colour is the inverse of the colour of an index on the four colours and
is none elsewhere (spec/41_palette.md R92), and what the two commands then answer. -/

namespace Sys2Proof.Machine

/-! ### The two functions -/

theorem colorIndex_paletteColor (i : PalIndex) : colorIndex (paletteColor i) = some i := by
  revert i; decide

theorem palIndex_mem_all (i : PalIndex) : i ∈ [0#2, 1#2, 2#2, 3#2] := by
  revert i; decide

/-- A colour has no index exactly when it is no index's colour: the search tries all four. -/
theorem colorIndex_eq_none_iff {c : Color} : colorIndex c = none ↔ ∀ i : PalIndex, c ≠ paletteColor i := by
  rw [colorIndex, List.find?_eq_none]
  simp only [beq_iff_eq]
  exact ⟨fun h i => h i (palIndex_mem_all i), fun h i _ => h i⟩

/-- The four colours as spec/41_palette.md R96 lists them. -/
theorem paletteColor_mem (i : PalIndex) :
    paletteColor i ∈ [0xFF505050#32, 0xFFE0A0C0#32, 0xFF000000#32, 0xFF60A0C0#32] := by
  revert i; decide

/-! ### The two commands -/

theorem checkValue_ok {v : BitVec 8} (h : v.toNat ≤ 3) : checkValue v = (false, .valueRange) := by
  simp [checkValue, h]

/-- The 2 bits a palette command looks up are the whole operand once it has passed `checkValue`. -/
theorem setWidth_palIndex_of_le {v : BitVec 8} (h : v.toNat ≤ 3) :
    ((v.setWidth 2 : PalIndex).setWidth 32 : BitVec 32) = v.setWidth 32 := by
  refine BitVec.eq_of_toNat_eq ?_
  simp only [BitVec.toNat_setWidth]
  omega

section Commands
variable {s : State}

theorem respondColorIndex_paletteColor (i : PalIndex) :
    s.respondColorIndex (paletteColor i) = s.respond .ok (i.setWidth 32) 0#128 := by
  simp [State.respondColorIndex, colorIndex_paletteColor]

theorem respondColorIndex_unknown {c : Color} (h : ∀ i : PalIndex, c ≠ paletteColor i) :
    s.respondColorIndex c = s.respond .unknownColor c 0#128 := by
  simp [State.respondColorIndex, colorIndex_eq_none_iff.mpr h]

theorem exec_palToColor (hf : s.faulted = false) {idx : BitVec 8} (hidx : idx.toNat ≤ 3) :
    exec (.palToColor idx) s = .next (s.respond .ok (paletteColor (idx.setWidth 2)) 0#128) :=
  exec_done hf (by simp [checksOf, checkValue_ok hidx])

theorem exec_colorToPal (hf : s.faulted = false) (c : Color) :
    exec (.colorToPal c) s = .next (s.respondColorIndex c) :=
  exec_done hf rfl

end Commands

end Sys2Proof.Machine

open Sys2Proof Sys2Proof.Machine

/-- Settles O28: a colour outside R96's list is no index's colour, so the search ends without an index. -/
theorem otherColoursAreUnknown : Obligations.OtherColoursAreUnknown := by
  intro s c hf hc
  have hunknown (i : PalIndex) : c ≠ paletteColor i := fun heq => hc (heq ▸ paletteColor_mem i)
  rw [exec_colorToPal hf, respondColorIndex_unknown hunknown]
  rfl

/-- Settles O29: the first command answers the colour of the index and leaves the block unfaulted, and the second then
answers the index of that colour. -/
theorem paletteRoundTrip : Obligations.PaletteRoundTrip := by
  refine ⟨colorIndex_paletteColor, fun s i hf hi => ?_⟩
  have hsecond := exec_colorToPal (s := s.respond .ok (paletteColor (i.setWidth 2)) 0#128) (by rwa [respond_faulted])
    (paletteColor (i.setWidth 2))
  rw [respondColorIndex_paletteColor, setWidth_palIndex_of_le hi] at hsecond
  exact ⟨_, _, _, exec_palToColor hf hi, respond_answer .., hsecond, respond_answer ..⟩

end

section
/-! The grid commands (spec/42_grid.md): which fault a tile beyond `count` ends in, the one tile a command may write,
and that none of them reads or writes the canvas. -/

namespace Sys2Proof.Machine

/-! ### A tile beyond `count` -/

/-- A command checks the tiles it names, in their order, before anything else (spec/42_grid.md R98). -/
theorem checksOf_eq_tile_checks_append (i : Instr) (s : State) :
    ∃ rest, checksOf i s = (tilesNamed i).map (fun q => s.checkTile q.1 q.2) ++ rest := by
  cases i <;> exact ⟨_, rfl⟩

/-- One tile beyond `count` among several makes the tile checks fail: whichever of them fails first, the cause is the
same. -/
theorem firstFailing_tile_checks {s : State} {tiles : List (GridId × BitVec 16)} {g : GridId} {ti : BitVec 16}
    (hmem : (g, ti) ∈ tiles) (hti : s.count g ≤ ti.toNat) (rest : List Check) :
    firstFailing (tiles.map (fun q => s.checkTile q.1 q.2) ++ rest) = some .tileIndexRange := by
  induction tiles with
  | nil => cases hmem
  | cons q tiles ih =>
    by_cases hq : s.count q.1 ≤ q.2.toNat
    · simp [State.checkTile, hq]
    · have htail : (g, ti) ∈ tiles := (List.mem_cons.mp hmem).resolve_left (by rintro rfl; exact hq hti)
      simpa [State.checkTile, hq] using ih htail

/-! ### The one tile a command may write -/

/-- The three commands of spec/43_compositor.md, the only ones that use the canvas. -/
def compositorOps : List Op := [.setCanvasBase, .setCanvasDim, .drawTile]

theorem not_mem_compositorOps_of_mem_gridOps : ∀ op ∈ gridOps, op ∉ compositorOps := by decide

/-- All that the effect of a command other than GRID_INIT and the compositor's can be: an answer alone, or the first
tile it names replaced and an OK. -/
theorem effectOf_cases_of_not_compositor {i : Instr} (hop : i.op ∉ compositorOps) (hinit : i.op ≠ .gridInit)
    (s : State) : (∃ st res rd, effectOf i s = s.respond st res rd) ∨
    ∃ g ti x, (tilesNamed i).head? = some (g, ti) ∧ effectOf i s = (s.setTile g ti.toNat x).respondOk := by
  cases i with
  | gridInit => exact absurd rfl hinit
  | setCanvasBase | setCanvasDim | drawTile => simp [Instr.op, compositorOps] at hop
  | palToColor | tileIndex | getTile | getPal | getRawByte => exact .inl ⟨_, _, _, rfl⟩
  | colorToPal color =>
    simp only [effectOf, State.respondColorIndex]
    split <;> exact .inl ⟨_, _, _, rfl⟩
  | decodeTile | encodeTile | setTile | setPal | setRawByteBit | copyPal => exact .inr ⟨_, _, _, rfl, rfl⟩

/-- Of both grids and the canvas, `t` has everything as `s` but the tile `named`, where there is one. -/
def SameButTile (named : Option (GridId × BitVec 16)) (s t : State) : Prop :=
  SameDims s t ∧ SameCanvasRegs s t ∧ SameCanvas s t ∧
    ∀ h k, (∀ g ti, named = some (g, ti) → ¬ (h = g ∧ k = ti.toNat)) →
      t.raw h k = s.raw h k ∧ t.pal h k = s.pal h k

theorem sameButTile_of_grid {s t : State} (hgrid : ∀ g, t.grid g = s.grid g) (hregs : SameCanvasRegs s t)
    (hcanvas : SameCanvas s t) (named : Option (GridId × BitVec 16)) : SameButTile named s t :=
  ⟨fun g => by simp [hgrid g], hregs, hcanvas, fun h k _ => ⟨raw_congr hgrid h k, pal_congr hgrid h k⟩⟩

theorem sameButTile_setTile (s : State) (g : GridId) (ti : BitVec 16) (x : Tile) :
    SameButTile (some (g, ti)) s (s.setTile g ti.toNat x).respondOk := by
  refine ⟨fun h => by simp [setTile_xc, setTile_yc], ⟨by simp, by simp, by simp⟩, fun a => by simp,
    fun h k hother => ?_⟩
  have htile : (s.setTile g ti.toNat x).tile h k = s.tile h k := by rw [tile_setTile, if_neg (hother g ti rfl)]
  rw [respondOk_eq, respond_raw, respond_pal]
  exact ⟨congrArg Tile.raw htile, congrArg Tile.pal htile⟩

theorem exec_sameButTile {i : Instr} {s t : State} (hop : i.op ∉ compositorOps) (hinit : i.op ≠ .gridInit)
    (h : exec i s = .next t) : SameButTile (tilesNamed i).head? s t := by
  obtain ⟨-, rfl⟩ | ⟨-, c, -, rfl⟩ | ⟨-, -, rfl⟩ := exec_cases h
  · exact sameButTile_of_grid (refuseFaulted_grid s) ⟨rfl, rfl, rfl⟩ (fun _ => rfl) _
  · exact sameButTile_of_grid (enterFault_grid s · c) ⟨rfl, rfl, rfl⟩ (fun _ => rfl) _
  · obtain ⟨st, res, rd, heffect⟩ | ⟨g, ti, x, hnamed, heffect⟩ := effectOf_cases_of_not_compositor hop hinit s
    · rw [heffect]
      exact sameButTile_of_grid (respond_grid s · st res rd) ⟨rfl, rfl, rfl⟩ (fun _ => rfl) _
    · rw [heffect, hnamed]
      exact sameButTile_setTile s g ti x

theorem exec_copyPal_sameRaw {s t : State} {g src : GridId} {ti sti : BitVec 16}
    (h : exec (.copyPal g ti src sti) s = .next t) : SameRaw s t := by
  intro h' k
  obtain ⟨-, rfl⟩ | ⟨-, c, -, rfl⟩ | ⟨-, -, rfl⟩ := exec_cases h
  · exact refuseFaulted_raw s h' k
  · exact enterFault_raw s h' k c
  · simp [effectOf]

theorem exec_gridInit_other_grid {s t : State} {g h : GridId} {xc yc : BitVec 16} (hne : h ≠ g)
    (hexec : exec (.gridInit g xc yc) s = .next t) : t.grid h = s.grid h := by
  obtain ⟨-, rfl⟩ | ⟨-, c, -, rfl⟩ | ⟨-, -, rfl⟩ := exec_cases hexec
  · exact refuseFaulted_grid s h
  · exact enterFault_grid s h c
  · simp [effectOf, hne]

/-! ### The grids under another canvas -/

section Canvas
variable (s : State) (base : BitVec 32) (w h : BitVec 16) (m : Memory) (g : GridId) (n : Nat)

@[simp] theorem withCanvas_grid : (s.withCanvas base w h m).grid g = s.grid g := by cases g <;> rfl

@[simp] theorem withCanvas_tile : (s.withCanvas base w h m).tile g n = s.tile g n := by simp [State.tile]

@[simp] theorem withCanvas_raw : (s.withCanvas base w h m).raw g n = s.raw g n := by simp [State.raw]

@[simp] theorem withCanvas_pal : (s.withCanvas base w h m).pal g n = s.pal g n := by simp [State.pal]

@[simp] theorem withCanvas_count : (s.withCanvas base w h m).count g = s.count g := by simp [State.count]

theorem withCanvas_setGrid (gr : Grid) :
    (s.withCanvas base w h m).setGrid g gr = (s.setGrid g gr).withCanvas base w h m := by cases g <;> rfl

theorem withCanvas_setTile (x : Tile) :
    (s.withCanvas base w h m).setTile g n x = (s.setTile g n x).withCanvas base w h m := by
  simp [State.setTile, withCanvas_setGrid]

theorem withCanvas_respond (st : Status) (res : BitVec 32) (rd : BitVec 128) :
    (s.withCanvas base w h m).respond st res rd = (s.respond st res rd).withCanvas base w h m := rfl

/-! ### A command under another canvas -/

theorem checksOf_withCanvas {i : Instr} (hop : i.op ∉ compositorOps) :
    checksOf i (s.withCanvas base w h m) = checksOf i s := by
  cases i with
  | setCanvasBase | setCanvasDim | drawTile => simp [Instr.op, compositorOps] at hop
  | gridInit => rfl
  | _ => simp [checksOf, State.checkTile, State.checkTileCoord]

theorem effectOf_withCanvas {i : Instr} (hop : i.op ∉ compositorOps) :
    effectOf i (s.withCanvas base w h m) = (effectOf i s).withCanvas base w h m := by
  cases i with
  | setCanvasBase | setCanvasDim | drawTile => simp [Instr.op, compositorOps] at hop
  | colorToPal color =>
    simp only [effectOf, State.respondColorIndex]
    split <;> rfl
  | _ => simp [effectOf, State.setRaw, State.setPal, State.initGrid, withCanvas_setTile, withCanvas_setGrid,
      withCanvas_respond]

end Canvas

/-- A command outside the compositor does the same under any other canvas, which it leaves as it was. -/
theorem exec_withCanvas {i : Instr} {s t : State} (hop : i.op ∉ compositorOps) (hexec : exec i s = .next t)
    (base : BitVec 32) (w h : BitVec 16) (m : Memory) :
    exec i (s.withCanvas base w h m) = .next (t.withCanvas base w h m) := by
  rw [exec_eq, checksOf_withCanvas _ _ _ _ _ hop, effectOf_withCanvas _ _ _ _ _ hop]
  obtain ⟨hf, rfl⟩ | ⟨hf, c, hc, rfl⟩ | ⟨hf, hc, rfl⟩ := exec_cases hexec
  · exact runCommand_halted (s := s.withCanvas base w h m) hf _ _
  · exact runCommand_fails (s := s.withCanvas base w h m) hf hc _
  · exact runCommand_done (s := s.withCanvas base w h m) hf hc _

end Sys2Proof.Machine

open Sys2Proof Sys2Proof.Machine

/-- Settles O14: the checks of every tile a command names come before its others, and all have the one cause. -/
theorem tileOutOfRangeFaults : Obligations.TileOutOfRangeFaults := by
  intro s i g ti hf hmem hti
  obtain ⟨rest, hchecks⟩ := checksOf_eq_tile_checks_append i s
  have hfails : firstFailing (checksOf i s) = some .tileIndexRange :=
    hchecks ▸ firstFailing_tile_checks hmem hti rest
  exact ⟨_, exec_fails hf hfails, rfl⟩

/-- Settles O39: a command's effect is an answer alone or one tile replaced, and for COPY_PAL that tile keeps its raw
bytes. -/
theorem gridIsolation : Obligations.GridIsolation := by
  refine ⟨fun s t g src ti sti hexec => ?copy, fun s t i hop hinit hexec => ?any⟩
  case copy =>
    obtain ⟨hdims, hregs, hcanvas, htiles⟩ := exec_sameButTile
      (by simp [Instr.op, compositorOps]) (by simp [Instr.op]) hexec
    have hpal : SamePalBut g ti.toNat s t := fun h k hother =>
      (htiles h k (by rintro g' ti' ⟨⟩; exact hother)).2
    exact ⟨exec_copyPal_sameRaw hexec, hpal, hdims, hregs, hcanvas⟩
  case any => exact exec_sameButTile (not_mem_compositorOps_of_mem_gridOps _ hop) hinit hexec

/-- Settles O40: outside the compositor neither checks nor effects use the canvas, and GRID_INIT replaces one grid. -/
theorem gridCommandsIgnoreTheCanvas : Obligations.GridCommandsIgnoreTheCanvas :=
  ⟨fun _ _ _ base w h m hop hexec =>
      exec_withCanvas (not_mem_compositorOps_of_mem_gridOps _ hop) hexec base w h m,
    fun _ _ _ _ _ _ hexec hne => exec_gridInit_other_grid hne hexec⟩

end

section
/-! The compositor (spec/43_compositor.md): when a draw faults, what a draw leaves in the words of its block, and what a
second draw does after a first. -/

namespace Sys2Proof.Machine

/-! ### The canvas check -/

/-- A draw of a tile that exists meets CANVAS_BOUNDS first when the canvas or the block does not fit: both checks after
the tile's have that cause (spec/43_compositor.md R128). -/
theorem firstFailing_draw_canvasBounds {s : State} {g : GridId} {ti dx dy : BitVec 16} (hti : ti.toNat < s.count g)
    (hout : s.params.canvasWords < s.canvasBase.toNat + s.canvasWidth.toNat * s.canvasHeight.toNat ∨
      s.canvasWidth.toNat < dx.toNat + 8 ∨ s.canvasHeight.toNat < dy.toNat + 8) (mirror : Bool) :
    firstFailing (checksOf (.drawTile g ti dx dy mirror) s) = some .canvasBounds := by
  rw [checksOf, checkTile_ok hti]
  by_cases hcanvas : s.params.canvasWords < s.canvasBase.toNat + s.canvasWidth.toNat * s.canvasHeight.toNat
  · simp [State.checkCanvasFits, hcanvas]
  · have hblock := hout.resolve_left hcanvas
    simp [State.checkCanvasFits, State.checkBlockFits, hcanvas, hblock]

/-! ### One draw -/

section Draw
variable {s : State} {g : GridId} {ti dx dy : BitVec 16}

/-- What a draw leaves in the word of pixel `(x, y)` of a block that fits the canvas width: the words of a block being
distinct, no other pixel's write reaches it (spec/43_compositor.md R129, R132). -/
theorem draw_word (hw : dx.toNat + 8 ≤ s.canvasWidth.toNat) {x y : Nat} (hx : x < 8) (hy : y < 8) (g : GridId)
    (ti : BitVec 16) (mirror : Bool) :
    (effectOf (.drawTile g ti dx dy mirror) s).canvasWord (s.drawAddress dx dy x y) =
      some (paletteColor (palAt (s.pal g ti.toNat) (sourceColumn mirror x) y)) := by
  rw [canvasWord_draw]
  refine read_writeAll_mem _ _ _ _ (mem_drawWords.mpr ⟨x, y, hx, hy, rfl, rfl⟩) ?_
  rintro ⟨a, v⟩ hmem haddr
  obtain ⟨x', y', hx', -, rfl, rfl⟩ := mem_drawWords.mp hmem
  obtain ⟨rfl, rfl⟩ := drawAddress_inj hx' hx hw haddr
  rfl

theorem draw_sameGrids (s : State) (g : GridId) (ti dx dy : BitVec 16) (mirror : Bool) :
    SameGrids s (effectOf (.drawTile g ti dx dy mirror) s) :=
  have hgrid := draw_grid s g ti dx dy mirror
  ⟨fun h => by simp [hgrid h], raw_congr hgrid, pal_congr hgrid⟩

/-! ### A draw after a draw -/

variable {h : GridId} {tj ex ey : BitVec 16}

theorem exec_draw_after_draw (hf : s.faulted = false) (hd : Drawable s h tj ex ey) (m n : Bool) :
    exec (.drawTile h tj ex ey n) (effectOf (.drawTile g ti dx dy m) s) =
      .next (effectOf (.drawTile h tj ex ey n) (effectOf (.drawTile g ti dx dy m) s)) :=
  exec_draw ((effectOf_faulted _ s).trans hf) (drawable_draw hd)

/-- A second draw leaves in its block what it would have left without the first. -/
theorem draw_word_after_draw (hw : ex.toNat + 8 ≤ s.canvasWidth.toNat) {x y : Nat} (hx : x < 8) (hy : y < 8)
    (m n : Bool) :
    (effectOf (.drawTile h tj ex ey n) (effectOf (.drawTile g ti dx dy m) s)).canvasWord (s.drawAddress ex ey x y) =
      some (paletteColor (palAt (s.pal h tj.toNat) (sourceColumn n x) y)) := by
  have hword := draw_word (s := effectOf (.drawTile g ti dx dy m) s) (dy := ey)
    (by rwa [canvasWidth_draw]) hx hy h tj n
  rwa [drawAddress_draw, pal_congr (draw_grid s g ti dx dy m)] at hword

theorem inBlock_draw {a : Nat} (m : Bool) :
    InBlock (effectOf (.drawTile g ti dx dy m) s) ex ey a ↔ InBlock s ex ey a := by
  simp only [InBlock, drawAddress_draw]

end Draw

end Sys2Proof.Machine

open Sys2Proof Sys2Proof.Machine

/-- Settles O17: after the tile check both checks of a draw raise CANVAS_BOUNDS, and a drawable draw passes all three. -/
theorem canvasCheckDecidesDraw : Obligations.CanvasCheckDecidesDraw := by
  intro s g ti dx dy mirror hf hti
  refine ⟨fun hout => ?faults, fun hd => ?draws⟩
  case faults => exact ⟨_, exec_fails hf (firstFailing_draw_canvasBounds hti hout mirror), rfl⟩
  case draws => exact ⟨_, exec_draw hf hd, (effectOf_faulted _ s).trans hf⟩

/-- Settles O44: rows of a block start `CANVAS_WIDTH` words apart, and its columns stay within one row of the canvas. -/
theorem blockWordsAreDistinct : Obligations.BlockWordsAreDistinct :=
  fun _ _ _ _ _ _ _ hx _ hx' _ hw haddr => drawAddress_inj hx hx' hw haddr

/-- Settles O45: the mirrored draw reads column `7 - x` and leaves the grids, so the unmirrored draw after it finds the
tile as the first one did. -/
theorem mirroringIsNotStored : Obligations.MirroringIsNotStored := by
  intro s g ti dx dy hf hd
  have ⟨_, _, hwidth, _⟩ := hd
  refine ⟨_, _, _, exec_draw hf hd, exec_draw hf hd, exec_draw_after_draw hf hd true false,
    draw_sameGrids s g ti dx dy true, fun x y hx hy => ⟨?mirrored, ?later⟩⟩
  case mirrored =>
    rw [draw_word hwidth hx hy, draw_word hwidth (by omega : 7 - x < 8) hy]
    rfl
  case later => rw [draw_word_after_draw hwidth hx hy, draw_word hwidth hx hy]

/-- Settles O46: the second draw leaves its own colours in its block, whatever the first wrote there, and nothing
elsewhere. -/
theorem laterDrawWins : Obligations.LaterDrawWins := by
  intro s g h ti tj dx dy ex ey m n hf hfirst hsecond
  have ⟨_, _, hwidth, _⟩ := hsecond
  exact ⟨_, _, exec_draw hf hfirst, exec_draw_after_draw hf hsecond m n,
    fun x y hx hy => draw_word_after_draw hwidth hx hy m n,
    fun a ha => draw_other _ h tj ex ey n (mt (inBlock_draw m).mp ha), rfl⟩

end

section
/-! The import (spec/44_host_pipelines.md R148-R154): bytes spliced into a buffer, tile by tile, and what an import that
succeeds has done. -/

namespace Sys2Proof.Machine

/-! ### Bytes and tiles spliced into a buffer -/

section Splice
variable {rom bytes : List Byte} {offset : Nat}

theorem splice_length (h : offset + bytes.length ≤ rom.length) :
    (splice rom offset bytes).length = rom.length := by
  simp only [splice, List.length_append, List.length_take, List.length_drop]
  omega

theorem splice_getElem?_before (h : offset ≤ rom.length) {k : Nat} (hk : k < offset) :
    (splice rom offset bytes)[k]? = rom[k]? := by
  have htake : k < (rom.take offset).length := by rw [List.length_take]; omega
  rw [splice, List.append_assoc, List.getElem?_append_left htake, List.getElem?_take_of_lt hk]

theorem splice_getElem?_after (h : offset ≤ rom.length) {k : Nat} (hk : offset + bytes.length ≤ k) :
    (splice rom offset bytes)[k]? = rom[k]? := by
  have hfront : (rom.take offset ++ bytes).length = offset + bytes.length := by
    rw [List.length_append, List.length_take_of_le h]
  rw [splice, List.getElem?_append_right (hfront ▸ hk), hfront, List.getElem?_drop, Nat.add_sub_cancel' hk]

/-- Tiles that fit leave the buffer's length. -/
theorem spliceTiles_length {tiles : List (BitVec 128)} (h : offset + tiles.length * 16 ≤ rom.length) :
    (spliceTiles rom offset tiles).length = rom.length := by
  induction tiles generalizing rom offset with
  | nil => rfl
  | cons w ws ih =>
    rw [List.length_cons] at h
    have hsplice : (splice rom offset (unpackTile w).toList).length = rom.length :=
      splice_length (by rw [Vector.length_toList]; omega)
    rw [spliceTiles, ih (by omega), hsplice]

/-- Tiles that fit leave the bytes on both sides of their range: none of the 16-byte splices reaches outside it. -/
theorem spliceTiles_getElem?_outside {tiles : List (BitVec 128)} (h : offset + tiles.length * 16 ≤ rom.length)
    {k : Nat} (hk : k < offset ∨ offset + tiles.length * 16 ≤ k) : (spliceTiles rom offset tiles)[k]? = rom[k]? := by
  induction tiles generalizing rom offset with
  | nil => rfl
  | cons w ws ih =>
    rw [List.length_cons] at h hk
    have hbytes : (unpackTile w).toList.length = 16 := Vector.length_toList
    have hsplice : (splice rom offset (unpackTile w).toList).length = rom.length := splice_length (by omega)
    rw [spliceTiles, ih (by omega) (by omega)]
    cases hk with
    | inl hbefore => exact splice_getElem?_before (by omega) hbefore
    | inr hafter => exact splice_getElem?_after (by omega) (by omega)

end Splice

/-! ### The procedure -/

section Import
variable {s t : State}

theorem importChecks_range {p : Params} {im : Image} {romLength offset : Nat}
    (h : importChecks p im romLength offset = true) :
    offset + (im.width / 8) * (im.height / 8) * 16 ≤ romLength := by
  simp only [importChecks, Bool.and_eq_true, decide_eq_true_eq] at h
  exact h.2

theorem encodeAll_length {n : Nat} {tiles : List (BitVec 128)}
    (h : (encodeAll n).run.run s = (.ok tiles, t)) : tiles.length = n := by
  simpa using hostProc_mapM_length h

/-- An import that succeeds has passed its checks, and its result is the buffer with one tile of the image spliced in
after the other. -/
theorem importImage_ok {im : Image} {rom out : List Byte} {offset : Nat} {writeOk : Bool}
    (h : (importImage (some im) (some rom) offset writeOk).run.run s = (.ok out, t)) :
    importChecks s.params im rom.length offset = true ∧
      ∃ tiles : List (BitVec 128), tiles.length = (im.width / 8) * (im.height / 8) ∧
        out = spliceTiles rom offset tiles := by
  simp only [importImage] at h
  obtain ⟨_, u, hget, h⟩ := hostProc_bind_ok h
  cases hget
  obtain ⟨_, u, hcheck, h⟩ := hostProc_bind_ok h
  obtain ⟨_, u, -, h⟩ := hostProc_bind_ok h
  obtain ⟨_, u, -, h⟩ := hostProc_bind_ok h
  obtain ⟨_, u, -, h⟩ := hostProc_bind_ok h
  obtain ⟨_, u, -, h⟩ := hostProc_bind_ok h
  obtain ⟨_, u, -, h⟩ := hostProc_bind_ok h
  obtain ⟨tiles, u, htiles, h⟩ := hostProc_bind_ok h
  refine ⟨(checkFormat_ok hcheck).1, tiles, encodeAll_length htiles, ?_⟩
  cases writeOk with
  | true => exact (hostProc_pure_ok h).1
  | false => cases h

end Import

end Sys2Proof.Machine

open Sys2Proof Sys2Proof.Machine

/-- Settles O56: an import that succeeds gives the ROM with its tiles spliced in, and by its range check they fit. -/
theorem importKeepsOtherBytes : Obligations.ImportKeepsOtherBytes := by
  intro s t im rom out offset writeOk h
  obtain ⟨hchecks, tiles, hcount, rfl⟩ := importImage_ok h
  have hfits := importChecks_range hchecks
  rw [← hcount] at hfits ⊢
  exact ⟨spliceTiles_length hfits, fun _ => spliceTiles_getElem?_outside hfits⟩

end

section
/-! Faults and the halted state (spec/60_exceptions.md): what a fault writes, what a halted block answers, and the one
response that is neither OK nor the end of service. -/

namespace Sys2Proof.Machine

/-! ### Fault entry and the halted state -/

/-- The codes of spec/60_exceptions.md R161. -/
theorem Cause.code_range (c : Cause) : 1 ≤ c.code.toNat ∧ c.code.toNat ≤ 9 := by
  cases c <;> decide

/-- The FAULTED test stands before the decoder, so the word does not matter (spec/30_encoding.md R70). -/
theorem issue_halted {s : State} (hf : s.faulted = true) (r : Request) : issue r s = .next s.refuseFaulted :=
  if_pos hf

/-! ### Which command answers UNKNOWN_COLOR -/

theorem effectOf_answer_ok {i : Instr} (h : i.op ≠ .colorToPal) (s : State) :
    ∃ res rd, (effectOf i s).answer = some (.response ⟨.ok, res, rd⟩) := by
  cases i with
  | colorToPal => exact absurd rfl h
  | _ => exact ⟨_, _, rfl⟩

theorem respondColorIndex_answer_unknownColor {s : State} {c : Color} {resp : Response}
    (h : (s.respondColorIndex c).answer = some (.response resp)) (hstatus : resp.status = .unknownColor) :
    s.respondColorIndex c = s.respond .unknownColor c 0#128 := by
  cases hindex : colorIndex c with
  | some i =>
    rw [State.respondColorIndex, hindex] at h
    cases h
    cases hstatus
  | none => exact respondColorIndex_unknown (colorIndex_eq_none_iff.mp hindex)

theorem effectOf_answer_unknownColor {i : Instr} {s : State} {resp : Response}
    (h : (effectOf i s).answer = some (.response resp)) (hstatus : resp.status = .unknownColor) :
    ∃ c, i = .colorToPal c ∧ effectOf i s = s.respond .unknownColor c 0#128 := by
  by_cases hop : i.op = .colorToPal
  · cases i with
    | colorToPal c => exact ⟨c, rfl, respondColorIndex_answer_unknownColor h hstatus⟩
    | _ => cases hop
  · obtain ⟨res, rd, hok⟩ := effectOf_answer_ok hop s
    cases hok.symm.trans h
    cases hstatus

/-- Of all that a command can come to, only an effect answers UNKNOWN_COLOR: the halted state answers FAULTED and a
failed check FAULT. -/
theorem exec_answer_unknownColor {i : Instr} {s t : State} {resp : Response} (h : exec i s = .next t)
    (hanswer : t.answer = some (.response resp)) (hstatus : resp.status = .unknownColor) :
    s.faulted = false ∧ ∃ c, i = .colorToPal c ∧ t = s.respond .unknownColor c 0#128 := by
  obtain ⟨-, rfl⟩ | ⟨-, c, -, rfl⟩ | ⟨hf, -, rfl⟩ := exec_cases h
  · cases hanswer
    cases hstatus
  · cases hanswer
    cases hstatus
  · exact ⟨hf, effectOf_answer_unknownColor hanswer hstatus⟩

/-! ### No command depends on the answer before it -/

section Answer
variable (s : State) (st : Status) (res : BitVec 32) (rd : BitVec 128)

theorem checksOf_respond (i : Instr) : checksOf i (s.respond st res rd) = checksOf i s := by
  cases i <;> rfl

theorem effectOf_respond (i : Instr) : effectOf i (s.respond st res rd) = effectOf i s := by
  cases i with
  | decodeTile g | encodeTile g | gridInit g | setTile g | setPal g | setRawByteBit g | copyPal g => cases g <;> rfl
  | _ => rfl

theorem exec_respond (i : Instr) : exec i (s.respond st res rd) = exec i s := by
  rw [exec_eq, exec_eq, checksOf_respond, effectOf_respond]
  rfl

end Answer

end Sys2Proof.Machine

open Sys2Proof Sys2Proof.Machine

/-- Settles O9: a halted block refuses a word before it decodes it. -/
theorem haltedRefusesEveryWord : Obligations.HaltedRefusesEveryWord :=
  fun _ r hf => issue_halted hf r

/-- Settles O10: of all that a word can come to, only fault entry sets FAULTED. -/
theorem faultEntryWritesOnlyFaultState : Obligations.FaultEntryWritesOnlyFaultState := by
  intro s t r hs h ht
  obtain ⟨hf, -⟩ | ⟨-, c, rfl⟩ | ⟨-, i, -, -, rfl⟩ := issue_cases h
  · exact absurd (hs.symm.trans hf) Bool.false_ne_true
  · have ⟨hlow, hhigh⟩ := c.code_range
    exact ⟨c.code, hlow, hhigh, rfl⟩
  · exact absurd (hs.symm.trans ((effectOf_faulted i s).symm.trans ht)) Bool.false_ne_true

/-- Settles O12: UNKNOWN_COLOR is COLOR_TO_PAL's response alone, which writes only the answer, and no command reads
the answer. -/
theorem unknownColorIsNoFault : Obligations.UnknownColorIsNoFault := by
  intro s t i resp h hanswer hstatus
  obtain ⟨hf, c, rfl, rfl⟩ := exec_answer_unknownColor h hanswer hstatus
  cases hanswer
  exact ⟨c, rfl, rfl, hf, hf, rfl, exec_respond s _ _ _⟩

end

section
/-! The encoder against the decoder: each undoes the other, a row's mask says which words are its commands, and only
SET_TILE has a payload (spec/30_encoding.md R63-R73). -/

namespace Sys2Proof

/-! ### The halves and the bytes of `LO` -/

@[simp] theorem extract_loPair_low (b a : BitVec 16) : (loPair b a).extractLsb' 0 16 = a :=
  BitVec.extractLsb'_append_eq_right

@[simp] theorem extract_loPair_high (b a : BitVec 16) : (loPair b a).extractLsb' 16 16 = b :=
  BitVec.extractLsb'_append_eq_left

section Bytes
variable (b3 b2 b1 b0 : BitVec 8)

@[simp] theorem extract_loBytes_0 : (loBytes b3 b2 b1 b0).extractLsb' 0 8 = b0 :=
  BitVec.extractLsb'_append_eq_right

@[simp] theorem extract_loBytes_8 : (loBytes b3 b2 b1 b0).extractLsb' 8 8 = b1 := by
  refine BitVec.eq_of_getLsbD_eq fun k hk => ?_
  simp only [BitVec.getLsbD_extractLsb', getLsbD_loBytes, hk, decide_true, Bool.true_and]
  rw [if_neg (by omega), if_pos (by omega), Nat.add_sub_cancel_left]

@[simp] theorem extract_loBytes_16 : (loBytes b3 b2 b1 b0).extractLsb' 16 8 = b2 := by
  refine BitVec.eq_of_getLsbD_eq fun k hk => ?_
  simp only [BitVec.getLsbD_extractLsb', getLsbD_loBytes, hk, decide_true, Bool.true_and]
  rw [if_neg (by omega), if_neg (by omega), if_pos (by omega), Nat.add_sub_cancel_left]

end Bytes

theorem loPair_fields (c : BitVec 64) : loPair (bField c) (aField c) = wordField c := by
  refine BitVec.eq_of_getLsbD_eq fun k hk => ?_
  simp only [getLsbD_loPair, bField, aField, wordField, BitVec.getLsbD_extractLsb']
  split <;> grind

theorem loBytes_fields (c : BitVec 64) :
    loBytes (c.extractLsb' 24 8) (vField c) (yField c) (xField c) = wordField c := by
  refine BitVec.eq_of_getLsbD_eq fun k hk => ?_
  simp only [getLsbD_loBytes, vField, yField, xField, wordField, BitVec.getLsbD_extractLsb']
  repeat' split
  all_goals grind

/-! ### Encode, then decode -/

/-- A row reads back from an encoded word every operand its format put there. -/
theorem instr_encode (i : Instr) : i.op.instr (encode i) = i := by
  cases i <;> simp [Instr.op, Op.instr, encode, encodeWord, encodePayload, aField, bField, idxField, xField, yField,
    vField, biField, bmField, stiField, extract_commandWord]

/-! ### Decode, then encode -/

/-- A word whose `RSV` is zero is put together from its own fields. -/
theorem commandWord_fields {c : BitVec 64} (hrsv : c.extractLsb' 48 5 = 0#5) :
    commandWord (opcField c) (gField c) (sField c) (mField c) (tiField c) (wordField c) = c := by
  refine BitVec.eq_of_getLsbD_eq fun k hk => ?_
  have hbit : 48 ≤ k → k < 53 → c.getLsbD k = false := fun hlow hhigh => by
    have hfield := congrArg (fun field : BitVec 5 => field.getLsbD (k - 48)) hrsv
    have hk5 : k - 48 < 5 := by omega
    simpa [hk5, Nat.add_sub_cancel' hlow] using hfield
  rw [getLsbD_commandWord]
  simp only [opcField, gField, sField, mField, tiField, wordField, BitVec.getLsbD_extractLsb']
  repeat' split
  all_goals grind

/-- A reserved bit of a word that meets its row's mask is 0. -/
theorem Op.Reserves.bit_eq_false {op : Op} {k : Nat} (hres : op.Reserves k 1) {c : BitVec 64}
    (hmask : c &&& op.mask = op.pattern) : c.getLsbD k = false :=
  Bool.eq_false_of_not_eq_true (hres.bit_ne_true hmask)

/-- A word that meets its row's mask is the word of the instruction the row makes of it: the fields the instruction
does not hold are reserved, so zero in both. -/
theorem encodeWord_instr {op : Op} {r : Request} (hmask : r.cmd &&& op.mask = op.pattern) :
    encodeWord (op.instr r) = r.cmd := by
  have hword := commandWord_fields ((reserves_rsv op).field_eq_zero hmask)
  rw [opcField_of_mask op hmask] at hword
  have hs (hop : op ≠ .copyPal) : sField r.cmd = false := (reserves_s hop).bit_eq_false hmask
  have hm (hop : op ≠ .drawTile) : mField r.cmd = false := (reserves_m hop).bit_eq_false hmask
  have hg (hop : op ∈ [.palToColor, .colorToPal, .setCanvasBase, .setCanvasDim]) : gField r.cmd = false :=
    (reserves_g hop).bit_eq_false hmask
  have hti (hop : op ∈ [.palToColor, .colorToPal, .setCanvasBase, .gridInit, .tileIndex, .setCanvasDim]) :
      tiField r.cmd = 0#16 := (reserves_ti hop).field_eq_zero hmask
  have hfield {start len : Nat} (hres : op.Reserves start len) : r.cmd.extractLsb' start len = 0#len :=
    hres.field_eq_zero hmask
  cases op with
  | decodeTile | encodeTile | getTile | setTile =>
    have hlo : wordField r.cmd = 0#32 := hfield (by decide)
    simpa [Op.instr, encodeWord, Instr.op, hs, hm, hlo] using hword
  | palToColor | getRawByte =>
    rw [← loBytes_fields, hfield (by decide), show vField r.cmd = 0#8 from hfield (by decide),
      show yField r.cmd = 0#8 from hfield (by decide)] at hword
    simpa [Op.instr, encodeWord, Instr.op, idxField, biField, xField, hs, hm, hg, hti] using hword
  | getPal | setRawByteBit =>
    rw [← loBytes_fields, hfield (by decide), show vField r.cmd = 0#8 from hfield (by decide)] at hword
    simpa [Op.instr, encodeWord, Instr.op, bmField, biField, yField, xField, hs, hm] using hword
  | setPal =>
    rw [← loBytes_fields, hfield (by decide)] at hword
    simpa [Op.instr, encodeWord, Instr.op, hs, hm] using hword
  | copyPal =>
    rw [← loPair_fields, show bField r.cmd = 0#16 from hfield (by decide)] at hword
    simpa [Op.instr, encodeWord, Instr.op, stiField, aField, hm] using hword
  | colorToPal | setCanvasBase => simpa [Op.instr, encodeWord, Instr.op, hs, hm, hg, hti] using hword
  | gridInit | tileIndex | setCanvasDim | drawTile =>
    rw [← loPair_fields] at hword
    simpa [Op.instr, encodeWord, Instr.op, hs, hm, hg, hti] using hword

theorem encodePayload_instr_setTile (r : Request) : encodePayload (Op.setTile.instr r) = r.wdata := rfl

/-! ### The payload -/

theorem instr_payload_swap {op : Op} (hop : op ≠ .setTile) (cmd : BitVec 64) (w w' : BitVec 128) :
    op.instr ⟨cmd, w⟩ = op.instr ⟨cmd, w'⟩ := by
  cases op with
  | setTile => exact absurd rfl hop
  | _ => rfl

theorem decode_payload_swap {cmd : BitVec 64} (h : opcField cmd ≠ Op.setTile.opc) (w w' : BitVec 128) :
    decode ⟨cmd, w⟩ = decode ⟨cmd, w'⟩ := by
  cases hrow : opOfOpc (opcField cmd) with
  | none => simp only [decode, hrow]
  | some op =>
    have hop : op ≠ .setTile := fun heq => h (heq ▸ opOfOpc_eq_some hrow)
    simp only [decode, hrow, instr_payload_swap hop cmd w w']

end Sys2Proof

open Sys2Proof Sys2Proof.Machine

/-- Settles O2: an encoded word meets its row's mask, and the row reads back the operands. -/
theorem decodeOfEncodeIsTheInstruction : Obligations.DecodeOfEncodeIsTheInstruction := by
  intro i
  obtain ⟨-, hmask⟩ := Laws.WordMatchesRow.all i
  exact (decode_of_mask (r := encode i) i.op hmask).trans (congrArg Except.ok (instr_encode i))

/-- Settles O3: the fields a row does not use are zero in a word that meets the row's mask. -/
theorem encodeOfDecodeIsTheWord : Obligations.EncodeOfDecodeIsTheWord := by
  intro r i hdecode
  obtain ⟨op, -, hmask, rfl⟩ := decode_ok hdecode
  refine ⟨encodeWord_instr hmask, fun hop => ?payload⟩
  case payload =>
    obtain rfl : op = .setTile := (op_instr op r).symm.trans hop
    exact encodePayload_instr_setTile r

/-- Settles O4: a word that decodes met the mask of the row it was decoded by. -/
theorem wordIsCommandIffMaskMatches : Obligations.WordIsCommandIffMaskMatches := by
  intro r op
  constructor
  · rintro ⟨i, hdecode, rfl⟩
    obtain ⟨op, -, hmask, rfl⟩ := decode_ok hdecode
    rwa [op_instr]
  · exact fun hmask => ⟨op.instr r, decode_of_mask op hmask, op_instr op r⟩

/-- Settles O8: the decoder hands the payload on to SET_TILE alone, and the FAULTED test looks at no word. -/
theorem payloadIgnoredButBySetTile : Obligations.PayloadIgnoredButBySetTile := by
  intro s cmd w w' h
  rw [issue, issue, decode_payload_swap h w w']

/-- Settles O1: each word is one closed case of the decoder. -/
theorem specWordsDecode : Obligations.SpecWordsDecode := by
  unfold Obligations.SpecWordsDecode
  decide

end

section
/-! The invariant of Safety.lean: a command's effect keeps each part of it, so every host action and every step does
(spec/10_state.md R26-R37). -/

namespace Sys2Proof.Machine

/-! ### The grids -/

/-- The invariant's part about both grids. -/
abbrev State.GridsInv (s : State) : Prop := ∀ g, (s.grid g).Inv s.params.maxTiles

theorem inv_iff {s : State} : s.Inv ↔
    s.params.legal = true ∧ s.GridsInv ∧ s.CanvasInv ∧ s.FaultInv ∧ s.answerAgrees = true := by
  constructor
  · rintro ⟨hlegal, h0, h1, hrest⟩
    exact ⟨hlegal, fun g => by cases g; exacts [h0, h1], hrest⟩
  · rintro ⟨hlegal, hgrids, hrest⟩
    exact ⟨hlegal, hgrids .g0, hgrids .g1, hrest⟩

theorem gridInv_put {gr : Grid} {n t : Nat} (h : gr.Inv n) (ht : t < gr.count) (x : Tile) :
    Grid.Inv { gr with tiles := gr.tiles.put t x } n := by
  obtain ⟨hcount, hwf, hbelow⟩ := h
  exact ⟨hcount, wf_put hwf t x, below_put hbelow ht x⟩

theorem gridInv_empty {xc yc : BitVec 16} {n : Nat} (h : xc.toNat * yc.toNat ≤ n) :
    Grid.Inv { xc := xc, yc := yc, tiles := [] } n :=
  ⟨h, rfl, rfl⟩

theorem gridInv_reset (n : Nat) : Grid.reset.Inv n := gridInv_empty (Nat.zero_le n)

section Effects
variable {i : Instr} {s : State}

/-- A command that passes its checks names tiles below `count` only. -/
theorem tile_named_lt_count (hc : firstFailing (checksOf i s) = none) {g : GridId} {ti : BitVec 16}
    (hmem : (g, ti) ∈ tilesNamed i) : ti.toNat < s.count g := by
  by_contra hti
  obtain ⟨rest, hchecks⟩ := checksOf_eq_tile_checks_append i s
  rw [hchecks, firstFailing_tile_checks hmem (Nat.not_lt.mp hti)] at hc
  cases hc

theorem setTile_gridsInv (h : s.GridsInv) {g : GridId} {t : Nat} (ht : t < s.count g) (x : Tile) :
    (s.setTile g t x).GridsInv := by
  intro k
  rw [setTile_params, State.setTile, setGrid_grid]
  split
  · exact gridInv_put (h g) ht x
  · exact h k

theorem initGrid_gridsInv (h : s.GridsInv) (g : GridId) {xc yc : BitVec 16}
    (hcap : xc.toNat * yc.toNat ≤ s.params.maxTiles) : (s.initGrid g xc yc).GridsInv := by
  intro k
  rw [initGrid_params, initGrid_grid]
  split
  · exact gridInv_empty hcap
  · exact h k

/-- Of GRID_INIT's effect the capacity check is what the invariant needs. -/
theorem capacity_of_checks {g : GridId} {xc yc : BitVec 16}
    (hc : firstFailing (checksOf (.gridInit g xc yc) s) = none) : xc.toNat * yc.toNat ≤ s.params.maxTiles := by
  simpa [checksOf, State.checkCapacity] using hc

theorem eq_gridInit_of_op (h : i.op = .gridInit) : ∃ g xc yc, i = .gridInit g xc yc := by
  cases i with
  | gridInit g xc yc => exact ⟨g, xc, yc, rfl⟩
  | _ => cases h

theorem effectOf_grid_of_compositor (hop : i.op ∈ compositorOps) (g : GridId) :
    (effectOf i s).grid g = s.grid g := by
  cases i with
  | setCanvasBase | setCanvasDim => simp [effectOf]
  | drawTile g' ti dx dy mirror => exact draw_grid s g' ti dx dy mirror g
  | _ => simp [Instr.op, compositorOps] at hop

theorem effectOf_gridsInv (h : s.GridsInv) (hc : firstFailing (checksOf i s) = none) : (effectOf i s).GridsInv := by
  by_cases hcomp : i.op ∈ compositorOps
  · intro k
    rw [effectOf_params, effectOf_grid_of_compositor hcomp]
    exact h k
  by_cases hinit : i.op = .gridInit
  · obtain ⟨g, xc, yc, rfl⟩ := eq_gridInit_of_op hinit
    exact initGrid_gridsInv h g (capacity_of_checks hc)
  obtain ⟨st, res, rd, heffect⟩ | ⟨g, ti, x, hnamed, heffect⟩ := effectOf_cases_of_not_compositor hcomp hinit s
  · rw [heffect]
    exact h
  · rw [heffect]
    exact setTile_gridsInv h (tile_named_lt_count hc (List.mem_of_head? hnamed)) x

/-! ### Canvas memory -/

/-- A block of a canvas that lies in canvas memory has only words that exist. -/
theorem drawAddress_lt {g : GridId} {ti dx dy : BitVec 16} (hd : Drawable s g ti dx dy) {x y : Nat} (hx : x < 8)
    (hy : y < 8) : s.drawAddress dx dy x y < s.params.canvasWords := by
  obtain ⟨-, hcanvas, hwidth, hheight⟩ := hd
  have hrow : (dy.toNat + y + 1) * s.canvasWidth.toNat ≤ s.canvasHeight.toNat * s.canvasWidth.toNat :=
    Nat.mul_le_mul_right _ (by omega)
  rw [Nat.add_mul, Nat.one_mul, Nat.mul_comm s.canvasHeight.toNat] at hrow
  unfold State.drawAddress
  omega

theorem draw_canvasInv (h : s.CanvasInv) {g : GridId} {ti dx dy : BitVec 16} (hd : Drawable s g ti dx dy)
    (mirror : Bool) : (effectOf (.drawTile g ti dx dy mirror) s).CanvasInv := by
  obtain ⟨hwf, hbelow⟩ := h
  rw [State.CanvasInv, canvas_draw, effectOf_params]
  refine ⟨wf_writeAll hwf _, below_writeAll hbelow _ ?_⟩
  rintro ⟨a, v⟩ hmem
  obtain ⟨x, y, hx, hy, rfl, -⟩ := mem_drawWords.mp hmem
  exact drawAddress_lt hd hx hy

theorem effectOf_canvasInv (h : s.CanvasInv) (hc : firstFailing (checksOf i s) = none) :
    (effectOf i s).CanvasInv := by
  by_cases hop : i.op = .drawTile
  · obtain ⟨g, ti, dx, dy, mirror, rfl⟩ := eq_drawTile_of_op hop
    exact draw_canvasInv h (drawable_of_checks hc) mirror
  · rwa [State.CanvasInv, effectOf_canvas hop, effectOf_params]

/-! ### The fault state and the answer -/

/-- An effect answers OK, or UNKNOWN_COLOR without data. -/
theorem effectOf_answer (i : Instr) (s : State) : ∃ resp, (effectOf i s).answer = some (.response resp) ∧
    (resp.status = .ok ∨ resp.status = .unknownColor ∧ resp.rdata = 0#128) := by
  by_cases hop : i.op = .colorToPal
  · cases i with
    | colorToPal c =>
      simp only [effectOf, State.respondColorIndex]
      cases colorIndex c with
      | some j => exact ⟨_, rfl, .inl rfl⟩
      | none => exact ⟨_, rfl, .inr ⟨rfl, rfl⟩⟩
    | _ => cases hop
  · obtain ⟨res, rd, hanswer⟩ := effectOf_answer_ok hop s
    exact ⟨_, hanswer, .inl rfl⟩

theorem effectOf_answerAgrees (hf : s.faulted = false) (i : Instr) : (effectOf i s).answerAgrees = true := by
  obtain ⟨resp, hanswer, hstatus | ⟨hstatus, hrdata⟩⟩ := effectOf_answer i s
  · simp [State.answerAgrees, hanswer, hstatus, hf]
  · simp [State.answerAgrees, hanswer, hstatus, hrdata, hf]

/-! ### Everything a host action can come to -/

theorem effectOf_inv (h : s.Inv) (hf : s.faulted = false) (hc : firstFailing (checksOf i s) = none) :
    (effectOf i s).Inv := by
  obtain ⟨hlegal, hgrids, hcanvas, hfault, -⟩ := inv_iff.mp h
  refine inv_iff.mpr ⟨by rwa [effectOf_params], effectOf_gridsInv hgrids hc, effectOf_canvasInv hcanvas hc, ?_,
    effectOf_answerAgrees hf i⟩
  rwa [State.FaultInv, effectOf_faulted, effectOf_faultCause]

theorem enterFault_inv (h : s.Inv) (c : Cause) : (s.enterFault c).Inv := by
  obtain ⟨hlegal, h0, h1, hcanvas, -⟩ := h
  refine ⟨hlegal, h0, h1, hcanvas, ⟨fun hf => ?_, fun _ => c.code_range⟩, ?_⟩
  · cases hf
  · simp [State.answerAgrees]

theorem refuseFaulted_inv (h : s.Inv) (hf : s.faulted = true) : s.refuseFaulted.Inv := by
  obtain ⟨hlegal, h0, h1, hcanvas, hfault, -⟩ := h
  exact ⟨hlegal, h0, h1, hcanvas, hfault, by simp [State.answerAgrees, hf]⟩

theorem applyReset_inv (h : s.Inv) : s.applyReset.Inv := by
  obtain ⟨hlegal, -, -, hcanvas, -⟩ := h
  exact ⟨hlegal, gridInv_reset _, gridInv_reset _, hcanvas, ⟨fun _ => rfl, fun hf => by cases hf⟩, rfl⟩

theorem resetWith_inv {p : Params} (hlegal : p.legal = true) : (State.resetWith p).Inv :=
  ⟨hlegal, gridInv_reset _, gridInv_reset _, ⟨rfl, rfl⟩, ⟨fun _ => rfl, fun hf => by cases hf⟩, rfl⟩

end Effects

theorem issue_inv {r : Request} {s t : State} (h : s.Inv) (hissue : issue r s = .next t) : t.Inv := by
  obtain ⟨hf, rfl⟩ | ⟨-, c, rfl⟩ | ⟨hf, i, -, hc, rfl⟩ := issue_cases hissue
  · exact refuseFaulted_inv h hf
  · exact enterFault_inv h c
  · exact effectOf_inv h hf hc

theorem hostAct_inv {a : HostAction} {s t : State} (h : s.Inv) (hact : hostAct a s = .next t) : t.Inv := by
  cases a with
  | command r => exact issue_inv h hact
  | memRead a =>
    obtain ⟨v, -, -, rfl⟩ := hostRead_cases hact
    obtain ⟨hlegal, h0, h1, hcanvas, hfault, -⟩ := h
    exact ⟨hlegal, h0, h1, hcanvas, hfault, rfl⟩
  | memWrite a v =>
    obtain ⟨ha, rfl⟩ := hostWrite_cases hact
    obtain ⟨hlegal, h0, h1, ⟨hwf, hbelow⟩, hfault, -⟩ := h
    exact ⟨hlegal, h0, h1, ⟨wf_write hwf a v, below_insert hbelow ha v⟩, hfault, rfl⟩
  | reset => exact hostAct_reset_next.mp hact ▸ applyReset_inv h

end Sys2Proof.Machine

open Sys2Proof Sys2Proof.Machine

/-- Settles O53: a step is a host action or none, and taking the action off `pending` touches no part of the
invariant. -/
theorem stepKeepsTheInvariant : Obligations.StepKeepsTheInvariant := by
  intro s t h hstep
  obtain ⟨-, rfl⟩ | ⟨a, rest, -, hact⟩ := step_cases hstep
  · exact h
  · exact hostAct_inv (s := { s with pending := rest }) h hact

/-- Settles O54: at reset the grids and canvas memory are empty and the fault state is clear. -/
theorem resetMeetsTheInvariant : Obligations.ResetMeetsTheInvariant :=
  ⟨fun _ hlegal => resetWith_inv hlegal, resetWith_inv (by decide)⟩

end

section
/-! The range checks on operands (spec/60_exceptions.md R161, R162): what each comes to, and the fault an operand out of
range ends in. -/

namespace Sys2Proof.Machine

/-! ### Each check, passed and failed -/

section Checks
variable {s : State} {g : GridId} {x y v bi : BitVec 8} {a b : BitVec 16}

theorem checkPixel_ok (hx : x.toNat ≤ 7) (hy : y.toNat ≤ 7) : checkPixel x y = (false, .pixelCoordRange) := by
  simp [checkPixel, hx, hy]

theorem checkPixel_fails (h : 7 < x.toNat ∨ 7 < y.toNat) : checkPixel x y = (true, .pixelCoordRange) := by
  simp [checkPixel, h]

theorem checkByteIndex_ok (h : bi.toNat ≤ 15) : checkByteIndex bi = (false, .byteIndexRange) := by
  simp [checkByteIndex, h]

theorem checkByteIndex_fails (h : 15 < bi.toNat) : checkByteIndex bi = (true, .byteIndexRange) := by
  simp [checkByteIndex, h]

theorem checkValue_fails (h : 3 < v.toNat) : checkValue v = (true, .valueRange) := by
  simp [checkValue, h]

theorem checkCapacity_ok (h : a.toNat * b.toNat ≤ s.params.maxTiles) :
    s.checkCapacity a b = (false, .gridCapacity) := by
  simp [State.checkCapacity, h]

theorem checkCapacity_fails (h : s.params.maxTiles < a.toNat * b.toNat) :
    s.checkCapacity a b = (true, .gridCapacity) := by
  simp [State.checkCapacity, h]

theorem checkTileCoord_ok (hx : a.toNat < (s.grid g).xc.toNat) (hy : b.toNat < (s.grid g).yc.toNat) :
    s.checkTileCoord g a b = (false, .tileCoordRange) := by
  simp [State.checkTileCoord, hx, hy]

theorem checkTileCoord_fails (h : (s.grid g).xc.toNat ≤ a.toNat ∨ (s.grid g).yc.toNat ≤ b.toNat) :
    s.checkTileCoord g a b = (true, .tileCoordRange) := by
  simp [State.checkTileCoord, h]

end Checks

/-- A command whose checks fail first with cause `c` enters that fault and writes nothing else. -/
theorem exec_faultEntered (c : Cause) {i : Instr} {s : State} (hf : s.faulted = false)
    (h : firstFailing (checksOf i s) = some c) : ∃ t, exec i s = .next t ∧ FaultEntered s t c.code :=
  ⟨_, exec_fails hf h, rfl⟩

/-! ### Ill-formed instructions -/

/-- Whatever range spec/30_encoding.md R65 gives a small operand, the command checks it. -/
theorem wellFormed_of_checks {i : Instr} {s : State} (hc : firstFailing (checksOf i s) = none) :
    i.wellFormed = true := by
  have hpass := firstFailing_eq_none.mp hc
  cases i with
  | palToColor | getPal | setPal | getRawByte | setRawByteBit =>
    simp only [checksOf, State.checkTile, checkPixel, checkByteIndex, checkValue, List.forall_mem_cons,
      Bool.or_eq_false_iff, decide_eq_false_iff_not, Nat.not_lt] at hpass
    simp [Instr.wellFormed, hpass]
  | _ => rfl

/-- The commands with a small operand check a tile, a pixel, a byte index and a value, and nothing else. -/
theorem checks_code_of_illFormed {i : Instr} (hi : i.wellFormed = false) (s : State) :
    ∀ q ∈ checksOf i s, q.2.code ∈ [3#4, 4#4, 5#4, 6#4] := by
  cases i with
  | palToColor | getPal | setPal | getRawByte | setRawByteBit =>
    simp [checksOf, State.checkTile, checkPixel, checkByteIndex, checkValue, Cause.code]
  | _ => cases hi

theorem exists_failing_of_illFormed {i : Instr} (hi : i.wellFormed = false) (s : State) :
    ∃ c, firstFailing (checksOf i s) = some c ∧ c.code ∈ [3#4, 4#4, 5#4, 6#4] := by
  cases hc : firstFailing (checksOf i s) with
  | none => exact absurd (hi.symm.trans (wellFormed_of_checks hc)) Bool.false_ne_true
  | some c => exact ⟨c, rfl, checks_code_of_illFormed hi s _ (firstFailing_mem hc)⟩

/-! ### The palette's operands -/

/-- The four indices with their colours, spec/41_palette.md R91. -/
theorem paletteColor_of_table : ∀ q ∈ [(0#8, 0xFF505050#32), (1#8, 0xFFE0A0C0#32), (2#8, 0xFF000000#32),
    (3#8, 0xFF60A0C0#32)], q.1.toNat ≤ 3 ∧ paletteColor (q.1.setWidth 2) = q.2 := by
  intro q hq
  fin_cases hq <;> decide

/-- The four colours with their indices, spec/41_palette.md R92. -/
theorem paletteIndex_of_table : ∀ q ∈ [(0#32, 0xFF505050#32), (1#32, 0xFFE0A0C0#32), (2#32, 0xFF000000#32),
    (3#32, 0xFF60A0C0#32)], ∃ i : PalIndex, q.2 = paletteColor i ∧ q.1 = i.setWidth 32 := by
  intro q hq
  fin_cases hq
  exacts [⟨0#2, by decide⟩, ⟨1#2, by decide⟩, ⟨2#2, by decide⟩, ⟨3#2, by decide⟩]

theorem three_lt_of_not_mem {v : BitVec 8} (h : v ∉ [0#8, 1#8, 2#8, 3#8]) : 3 < v.toNat := by
  simp only [List.mem_cons, List.not_mem_nil, or_false, not_or] at h
  bv_omega

end Sys2Proof.Machine

open Sys2Proof Sys2Proof.Machine

/-- Settles O15: the tile check and the checks before it in order pass, and the operand's own check fails. -/
theorem smallOperandOutOfRangeFaults : Obligations.SmallOperandOutOfRangeFaults := by
  intro s g ti x y v bi bm hf
  refine ⟨fun hti hpixel => ⟨?getPal, ?setPal⟩, fun hti hx hy hv => ?setPalValue,
    fun hti hbi => ⟨?getRawByte, ?setRawByteBit⟩, fun hv => ?palToColor⟩
  case getPal | setPal =>
    exact exec_faultEntered .pixelCoordRange hf (by simp [checksOf, checkTile_ok hti, checkPixel_fails hpixel])
  case setPalValue =>
    exact exec_faultEntered .valueRange hf
      (by simp [checksOf, checkTile_ok hti, checkPixel_ok hx hy, checkValue_fails hv])
  case getRawByte | setRawByteBit =>
    exact exec_faultEntered .byteIndexRange hf (by simp [checksOf, checkTile_ok hti, checkByteIndex_fails hbi])
  case palToColor => exact exec_faultEntered .valueRange hf (by simp [checksOf, checkValue_fails hv])

/-- Settles O16: each of the two commands has one check. -/
theorem gridSizeAndCoordinateFaults : Obligations.GridSizeAndCoordinateFaults := by
  intro s g a b hf
  refine ⟨fun hcap => ?size, fun hcoord => ?coordinate⟩
  case size => exact exec_faultEntered .gridCapacity hf (by simp [checksOf, checkCapacity_fails hcap])
  case coordinate => exact exec_faultEntered .tileCoordRange hf (by simp [checksOf, checkTileCoord_fails hcoord])

/-- Settles O18: a command that passes its checks is well formed, and the checks of a command with a small operand have
the four causes only. -/
theorem illFormedInstructionAlwaysFaults : Obligations.IllFormedInstructionAlwaysFaults := by
  intro s i hf hi
  obtain ⟨c, hc, hcode⟩ := exists_failing_of_illFormed hi s
  exact ⟨_, c.code, exec_fails hf hc, rfl, hcode⟩

/-- Settles O26: the four indices pass the value check, and every other fails it. -/
theorem palToColorAnswersTheColour : Obligations.PalToColorAnswersTheColour := by
  intro s hf
  refine ⟨fun q hq => ?colour, fun idx hidx => ?fault⟩
  case colour =>
    obtain ⟨hle, hcolor⟩ := paletteColor_of_table q hq
    rw [exec_palToColor hf hle, hcolor]
    rfl
  case fault => exact exec_faultEntered .valueRange hf (by simp [checksOf, checkValue_fails (three_lt_of_not_mem hidx)])

/-- Settles O27: each of the four colours is the colour of its index. -/
theorem colorToPalAnswersTheIndex : Obligations.ColorToPalAnswersTheIndex := by
  intro s hf q hq
  obtain ⟨i, hcolor, hindex⟩ := paletteIndex_of_table q hq
  rw [exec_colorToPal hf, hcolor, respondColorIndex_paletteColor, hindex]
  rfl

end

section
/-! What each tile and grid command answers and writes, and what it leaves (spec/40_codec.md R87, R88, spec/42_grid.md
R99-R107). -/

namespace Sys2Proof.Machine

/-! ### What a write to a grid leaves -/

section Frame
variable (s : State) (g : GridId) (n : Nat)

theorem setGrid_sameOutsideGrids (gr : Grid) : SameOutsideGrids s (s.setGrid g gr).respondOk :=
  ⟨⟨by simp, by simp, by simp⟩, fun a => by simp [State.canvasWord], ⟨by simp, by simp⟩, by simp, by simp⟩

theorem setPal_frame (p : PalTile) :
    SamePalBut g n s (s.setPal g n p).respondOk ∧ SameRaw s (s.setPal g n p).respondOk ∧
      SameDims s (s.setPal g n p).respondOk ∧ SameOutsideGrids s (s.setPal g n p).respondOk :=
  ⟨fun h k hother => by simp [hother], fun h k => by simp, fun h => by simp, setGrid_sameOutsideGrids s g _⟩

theorem setRaw_frame (r : RawTile) :
    SameRawBut g n s (s.setRaw g n r).respondOk ∧ SamePal s (s.setRaw g n r).respondOk ∧
      SameDims s (s.setRaw g n r).respondOk ∧ SameOutsideGrids s (s.setRaw g n r).respondOk :=
  ⟨fun h k hother => by simp [hother], fun h k => by simp, fun h => by simp, setGrid_sameOutsideGrids s g _⟩

theorem setPal_pal_same (p : PalTile) : (s.setPal g n p).respondOk.pal g n = p := by simp

theorem setRaw_raw_same (r : RawTile) : (s.setRaw g n r).respondOk.raw g n = r := by simp

theorem initGrid_tile (xc yc : BitVec 16) : (s.initGrid g xc yc).respondOk.tile g n = Tile.zero := by
  simp [State.tile]

end Frame

/-! ### When a command completes -/

section Completes
variable {s : State} {g : GridId} {ti : BitVec 16} (hf : s.faulted = false)
include hf

theorem exec_gridInit {xc yc : BitVec 16} (hcap : xc.toNat * yc.toNat ≤ s.params.maxTiles) :
    exec (.gridInit g xc yc) s = .next (s.initGrid g xc yc).respondOk :=
  exec_done hf (by simp [checksOf, checkCapacity_ok hcap])

theorem exec_tileIndex {tx ty : BitVec 16} (hx : tx.toNat < (s.grid g).xc.toNat)
    (hy : ty.toNat < (s.grid g).yc.toNat) : exec (.tileIndex g tx ty) s =
      .next (s.respondResult (BitVec.ofNat 32 (ty.toNat * (s.grid g).xc.toNat + tx.toNat))) :=
  exec_done hf (by simp [checksOf, checkTileCoord_ok hx hy])

variable (hti : ti.toNat < s.count g)
include hti

theorem exec_getTile : exec (.getTile g ti) s = .next (s.respondData (packTile (s.raw g ti.toNat))) :=
  exec_done hf (by simp [checksOf, checkTile_ok hti])

theorem exec_setTile (w : BitVec 128) :
    exec (.setTile g ti w) s = .next (s.setRaw g ti.toNat (unpackTile w)).respondOk :=
  exec_done hf (by simp [checksOf, checkTile_ok hti])

theorem exec_getPal {x y : BitVec 8} (hx : x.toNat ≤ 7) (hy : y.toNat ≤ 7) : exec (.getPal g ti x y) s =
    .next (s.respondResult ((palAt (s.pal g ti.toNat) x.toNat y.toNat).setWidth 32)) :=
  exec_done hf (by simp [checksOf, checkTile_ok hti, checkPixel_ok hx hy])

theorem exec_setPal {x y v : BitVec 8} (hx : x.toNat ≤ 7) (hy : y.toNat ≤ 7) (hv : v.toNat ≤ 3) :
    exec (.setPal g ti x y v) s = .next
      (s.setPal g ti.toNat (setPalAt (s.pal g ti.toNat) x.toNat y.toNat (v.setWidth 2))).respondOk :=
  exec_done hf (by simp [checksOf, checkTile_ok hti, checkPixel_ok hx hy, checkValue_ok hv])

theorem exec_getRawByte {bi : BitVec 8} (hbi : bi.toNat ≤ 15) : exec (.getRawByte g ti bi) s =
    .next (s.respondResult ((rawByte (s.raw g ti.toNat) bi.toNat).setWidth 32)) :=
  exec_done hf (by simp [checksOf, checkTile_ok hti, checkByteIndex_ok hbi])

theorem exec_setRawByteBit {bi : BitVec 8} (hbi : bi.toNat ≤ 15) (bm : BitVec 8) :
    exec (.setRawByteBit g ti bi bm) s = .next (s.setRaw g ti.toNat
      (setRawByte (s.raw g ti.toNat) bi.toNat (rawByte (s.raw g ti.toNat) bi.toNat ||| bm))).respondOk :=
  exec_done hf (by simp [checksOf, checkTile_ok hti, checkByteIndex_ok hbi])

theorem exec_copyPal {src : GridId} {sti : BitVec 16} (hsti : sti.toNat < s.count src) :
    exec (.copyPal g ti src sti) s = .next (s.setPal g ti.toNat (s.pal src sti.toNat)).respondOk :=
  exec_done hf (by simp [checksOf, checkTile_ok hti, checkTile_ok hsti])

end Completes

/-! ### Raster order -/

/-- A tile's raster index fits the 32 bits of a result, whatever the grid's dimensions. -/
theorem rasterIndex_lt {xc tx ty : BitVec 16} (hx : tx.toNat < xc.toNat) :
    ty.toNat * xc.toNat + tx.toNat < 2 ^ 32 := by
  calc ty.toNat * xc.toNat + tx.toNat
      < (ty.toNat + 1) * xc.toNat := by rw [Nat.add_mul, Nat.one_mul]; omega
    _ ≤ 2 ^ 16 * 2 ^ 16 := Nat.mul_le_mul ty.isLt xc.isLt.le

/-- Coordinates of a tile below `count`: they lie in the grid, so fit their fields (spec/42_grid.md R110). -/
theorem rasterCoords {gr : Grid} {n : Nat} (h : n < gr.count) :
    (BitVec.ofNat 16 (n % gr.xc.toNat)).toNat = n % gr.xc.toNat ∧
      (BitVec.ofNat 16 (n / gr.xc.toNat)).toNat = n / gr.xc.toNat ∧
      n % gr.xc.toNat < gr.xc.toNat ∧ n / gr.xc.toNat < gr.yc.toNat := by
  have hcol : n % gr.xc.toNat < gr.xc.toNat := Nat.mod_lt _ (Nat.pos_of_mul_pos_right (Nat.zero_lt_of_lt h))
  have hrow : n / gr.xc.toNat < gr.yc.toNat := Nat.div_lt_of_lt_mul h
  have hxc := gr.xc.isLt
  have hyc := gr.yc.isLt
  refine ⟨?_, ?_, hcol, hrow⟩
  · rw [BitVec.toNat_ofNat, Nat.mod_eq_of_lt (hcol.trans hxc)]
  · rw [BitVec.toNat_ofNat, Nat.mod_eq_of_lt (hrow.trans hyc)]

/-! ### Which form of a tile a command writes -/

theorem effectOf_sameRaw {i : Instr} (hop : i.op ∉ [.setTile, .setRawByteBit, .encodeTile, .gridInit]) (s : State) :
    SameRaw s (effectOf i s) := by
  intro g n
  cases i with
  | setTile | setRawByteBit | encodeTile | gridInit => simp [Instr.op] at hop
  | setCanvasBase | setCanvasDim | drawTile =>
    exact raw_congr (effectOf_grid_of_compositor (by simp [Instr.op, compositorOps])) g n
  | colorToPal c =>
    simp only [effectOf, State.respondColorIndex]
    split <;> rfl
  | _ => simp [effectOf]

theorem effectOf_samePal {i : Instr} (hop : i.op ∉ [.setPal, .copyPal, .decodeTile, .gridInit]) (s : State) :
    SamePal s (effectOf i s) := by
  intro g n
  cases i with
  | setPal | copyPal | decodeTile | gridInit => simp [Instr.op] at hop
  | setCanvasBase | setCanvasDim | drawTile =>
    exact pal_congr (effectOf_grid_of_compositor (by simp [Instr.op, compositorOps])) g n
  | colorToPal c =>
    simp only [effectOf, State.respondColorIndex]
    split <;> rfl
  | _ => simp [effectOf]

theorem toNat_setWidth_palIndex {v : BitVec 8} (h : v.toNat ≤ 3) : (v.setWidth 2 : PalIndex).toNat = v.toNat := by
  rw [BitVec.toNat_setWidth]
  omega

end Sys2Proof.Machine

open Sys2Proof Sys2Proof.Machine

/-- Settles O23: the effect is one palletized form replaced. -/
theorem decodeTileResult : Obligations.DecodeTileResult := fun s g _ hf hti =>
  ⟨_, exec_decodeTile hf hti, rfl, decodeTile_pal s g _, setPal_frame s g _ _⟩

/-- Settles O24: the effect is one raw form replaced. -/
theorem encodeTileResult : Obligations.EncodeTileResult := fun s g _ hf hti =>
  ⟨_, exec_encodeTile hf hti, rfl, encodeTile_raw s g _, setRaw_frame s g _ _⟩

/-- Settles O30: the new grid lists no tile, so every slot of it is the zero tile. -/
theorem gridInitResult : Obligations.GridInitResult := by
  intro s g xc yc hf hcap
  have hzero := fun n => initGrid_tile s g n xc yc
  refine ⟨_, exec_gridInit hf hcap, rfl, by simp, by simp, fun n b _ => ?_, fun n x y _ _ => ?_,
    fun h hother => by simp [hother], setGrid_sameOutsideGrids s g _⟩
  · rw [State.raw, hzero, rawByte_zero]
  · rw [State.pal, hzero, palAt_zero]

/-- Settles O31: the index fits 32 bits, so it is answered exact. -/
theorem tileIndexResult : Obligations.TileIndexResult := fun _ _ _ _ hf hx hy =>
  ⟨_, (BitVec.toNat_ofNat ..).trans (Nat.mod_eq_of_lt (rasterIndex_lt hx)), exec_tileIndex hf hx hy⟩

/-- Settles O32: a number below `count` is its row times `XC` plus its column. -/
theorem tileIndexIsRasterOrder : Obligations.TileIndexIsRasterOrder := by
  intro s g n hf hn
  obtain ⟨hcol, hrow, hcolLt, hrowLt⟩ := rasterCoords hn
  obtain ⟨r, hr, hexec⟩ := tileIndexResult s g _ _ hf (hcol.trans_lt hcolLt) (hrow.trans_lt hrowLt)
  rw [hcol, hrow, Nat.div_add_mod'] at hr
  exact ⟨r, hr, hexec⟩

/-- Settles O33: lane `b` of a packed tile is its byte `b`. -/
theorem getTileResult : Obligations.GetTileResult := fun _ _ _ hf hti =>
  ⟨_, fun _ hb => packTile_lane _ hb, exec_getTile hf hti⟩

/-- Settles O34: byte `b` of an unpacked payload is its lane `b`. -/
theorem setTileResult : Obligations.SetTileResult := by
  intro s g ti w hf hti
  refine ⟨_, exec_setTile hf hti w, rfl, fun b hb => ?_, setRaw_frame s g _ _⟩
  rw [setRaw_raw_same, rawByte_unpackTile w hb]

/-- Settles O35: both commands answer what they read and write nothing. -/
theorem getPalAndGetRawByteResults : Obligations.GetPalAndGetRawByteResults := fun _ _ _ _ _ _ hf hti =>
  ⟨fun hx hy => exec_getPal hf hti hx hy, fun hbi => exec_getRawByte hf hti hbi⟩

/-- Settles O36: one entry of one palletized form is replaced, and the 2 bits stored are the whole value. -/
theorem setPalResult : Obligations.SetPalResult := by
  intro s g ti x y v hf hti hx hy hv
  have hentry := palAt_setPalAt (s.pal g ti.toNat) (Nat.lt_succ_of_le hx) (Nat.lt_succ_of_le hy) (v.setWidth 2)
  refine ⟨_, exec_setPal hf hti hx hy hv, rfl, ?_, fun x' y' hother => ?_, setPal_frame s g _ _⟩
  · rw [setPal_pal_same, hentry, if_pos ⟨rfl, rfl⟩, toNat_setWidth_palIndex hv]
  · rw [setPal_pal_same, hentry, if_neg hother]

/-- Settles O37: one byte of one raw form becomes itself OR the mask. -/
theorem setRawByteBitResult : Obligations.SetRawByteBitResult := by
  intro s g ti bi bm hf hti hbi
  have hbyte := rawByte_setRawByte (s.raw g ti.toNat) (Nat.lt_succ_of_le hbi)
  refine ⟨_, exec_setRawByteBit hf hti hbi bm, rfl, fun k => ?_, fun b hother => ?_, setRaw_frame s g _ _⟩
  · rw [setRaw_raw_same, hbyte, if_pos rfl, BitVec.getLsbD_or]
  · rw [setRaw_raw_same, hbyte, if_neg hother]

/-- Settles O38: the source is read in the state before the write. -/
theorem copyPalResult : Obligations.CopyPalResult := fun s g _ _ _ hf hti hsti =>
  ⟨_, exec_copyPal hf hti hsti, rfl, setPal_pal_same s g _ _, setPal_frame s g _ _⟩

/-- Settles O41: a refusal and a fault entry write no tile, and an effect writes the form its command is there for. -/
theorem rawAndPalletizedWritersAreSeparate : Obligations.RawAndPalletizedWritersAreSeparate := by
  intro s t i h
  obtain ⟨-, rfl⟩ | ⟨-, c, -, rfl⟩ | ⟨-, -, rfl⟩ := exec_cases h
  · exact ⟨fun _ => refuseFaulted_raw s, fun _ => refuseFaulted_pal s⟩
  · exact ⟨fun _ g n => enterFault_raw s g n c, fun _ g n => enterFault_pal s g n c⟩
  · exact ⟨fun hop => effectOf_sameRaw hop s, fun hop => effectOf_samePal hop s⟩

end

section
/-! The compositor's commands (spec/43_compositor.md R126, R127, R129), and that every command that succeeds is
idempotent (spec/20_memory.md R54): its checks pass again in the state it leaves, and its effect makes that state
again. -/

namespace Sys2Proof.Machine

/-! ### The same writes twice -/

/-- A write and later ones to other words commute. -/
theorem write_writeAll_comm {ws : List (Nat × Color)} {a : Nat} (h : a ∉ ws.map Prod.fst) (m : Memory) (v : Color) :
    Memory.write (Memory.writeAll m ws) a v = Memory.writeAll (Memory.write m a v) ws := by
  induction ws generalizing m with
  | nil => rfl
  | cons w ws ih =>
    rw [List.map_cons, List.mem_cons, not_or] at h
    obtain ⟨hne, hrest⟩ := h
    rw [Memory.writeAll, ih hrest, Memory.writeAll]
    exact congrArg (Memory.writeAll · ws) (insert_comm m (Ne.symm hne) w.2 v)

/-- Writing the same words with the same values again changes nothing. -/
theorem writeAll_writeAll_same {ws : List (Nat × Color)} (h : (ws.map Prod.fst).Nodup) (m : Memory) :
    Memory.writeAll (Memory.writeAll m ws) ws = Memory.writeAll m ws := by
  induction ws generalizing m with
  | nil => rfl
  | cons w ws ih =>
    obtain ⟨hfirst, hrest⟩ := List.nodup_cons.mp h
    calc Memory.writeAll (Memory.writeAll m (w :: ws)) (w :: ws)
        = Memory.writeAll (Memory.write (Memory.writeAll (Memory.write m w.1 w.2) ws) w.1 w.2) ws := rfl
      _ = Memory.writeAll (Memory.writeAll (Memory.write (Memory.write m w.1 w.2) w.1 w.2) ws) ws := by
          rw [write_writeAll_comm hfirst]
      _ = Memory.writeAll (Memory.write (Memory.write m w.1 w.2) w.1 w.2) ws := ih hrest _
      _ = Memory.writeAll (Memory.write m w.1 w.2) ws := by
          rw [Memory.write, Memory.write, insert_insert_same]

theorem drawWords_fst (s : State) (g : GridId) (t : Nat) (dx dy : BitVec 16) (mirror : Bool) :
    (s.drawWords g t dx dy mirror).map Prod.fst = s.blockWords dx dy := by
  rw [State.drawWords, List.map_map]
  rfl

/-! ### The same tile, byte or entry twice -/

section Same
variable (s : State) (g : GridId) (n : Nat)

theorem setPal_setPal_same (p : PalTile) : (s.setPal g n p).setPal g n p = s.setPal g n p := by
  unfold State.setPal
  rw [tile_setTile, if_pos ⟨rfl, rfl⟩]
  exact setTile_setTile_same ..

theorem setRaw_setRaw_same (r : RawTile) : (s.setRaw g n r).setRaw g n r = s.setRaw g n r := by
  unfold State.setRaw
  rw [tile_setTile, if_pos ⟨rfl, rfl⟩]
  exact setTile_setTile_same ..

theorem initGrid_initGrid_same (xc yc : BitVec 16) :
    (s.initGrid g xc yc).initGrid g xc yc = s.initGrid g xc yc := by
  cases g <;> rfl

theorem setPalAt_setPalAt_same (p : PalTile) (x y : Nat) (v : PalIndex) :
    setPalAt (setPalAt p x y v) x y v = setPalAt p x y v := by
  by_cases hy : y < 8
  · simp [setPalAt, hy]
  · simp [setPalAt, hy]

/-- "OR-ing one mask in twice is OR-ing it in once" (spec/20_memory.md R54). -/
theorem setRawByte_or_same (r : RawTile) {b : Nat} (hb : b < 16) (m : Byte) :
    setRawByte (setRawByte r b (rawByte r b ||| m)) b (rawByte (setRawByte r b (rawByte r b ||| m)) b ||| m) =
      setRawByte r b (rawByte r b ||| m) := by
  rw [rawByte_setRawByte r hb, if_pos rfl, BitVec.or_assoc, BitVec.or_self]
  exact Vector.setIfInBounds_setIfInBounds _

end Same

/-! ### Any command twice -/

section Twice
variable {i : Instr} {s : State}

/-- What a command checks, its own effect leaves as it was. -/
theorem checksOf_effectOf (i : Instr) (s : State) : checksOf i (effectOf i s) = checksOf i s := by
  cases i with
  | drawTile g ti dx dy mirror =>
    simp only [checksOf, State.checkTile, State.checkCanvasFits, State.checkBlockFits,
      count_congr (draw_grid s g ti dx dy mirror), canvasBase_draw, canvasWidth_draw, canvasHeight_draw,
      effectOf_params]
  | colorToPal | setCanvasBase | setCanvasDim => rfl
  | _ => simp [checksOf, effectOf, State.checkTile, State.checkTileCoord, State.checkCapacity]

/-- An effect is a response over a state `u` with the effect's writes made; since no command reads the answer, it is
idempotent if over `u` it makes `u` again. -/
theorem effectOf_effectOf_of_eq {u : State} {st : Status} {res : BitVec 32} {rd : BitVec 128}
    (h : effectOf i s = u.respond st res rd) (hu : effectOf i u = u.respond st res rd) :
    effectOf i (effectOf i s) = effectOf i s := by
  rw [h, effectOf_respond, hu]

theorem byteIndex_lt_of_checks {g : GridId} {ti : BitVec 16} {bi bm : BitVec 8}
    (hc : firstFailing (checksOf (.setRawByteBit g ti bi bm) s) = none) : bi.toNat < 16 := by
  have hpass := firstFailing_eq_none.mp hc (checkByteIndex bi) (by simp [checksOf])
  exact Nat.lt_succ_of_le (Nat.not_lt.mp (of_decide_eq_false hpass))

theorem effectOf_effectOf (hc : firstFailing (checksOf i s) = none) : effectOf i (effectOf i s) = effectOf i s := by
  cases i with
  | palToColor | tileIndex | getTile | getPal | getRawByte => exact effectOf_effectOf_of_eq rfl rfl
  | colorToPal c =>
    obtain ⟨st, res, rd, h⟩ | ⟨g, ti, x, hnamed, -⟩ := effectOf_cases_of_not_compositor (i := .colorToPal c)
      (by simp [Instr.op, compositorOps]) (by simp [Instr.op]) s
    · exact effectOf_effectOf_of_eq h h
    · cases hnamed
  | decodeTile => exact effectOf_effectOf_of_eq rfl (by simp [effectOf, setPal_setPal_same])
  | setPal => exact effectOf_effectOf_of_eq rfl (by simp [effectOf, setPalAt_setPalAt_same, setPal_setPal_same])
  | copyPal => exact effectOf_effectOf_of_eq rfl (by simp [effectOf, setPal_setPal_same])
  | encodeTile | setTile => exact effectOf_effectOf_of_eq rfl (by simp [effectOf, setRaw_setRaw_same])
  | setRawByteBit =>
    exact effectOf_effectOf_of_eq rfl
      (by simp [effectOf, setRawByte_or_same _ (byteIndex_lt_of_checks hc), setRaw_setRaw_same])
  | gridInit => exact effectOf_effectOf_of_eq rfl (by simp [effectOf, initGrid_initGrid_same])
  | setCanvasBase | setCanvasDim => exact effectOf_effectOf_of_eq rfl rfl
  | drawTile g ti dx dy mirror =>
    obtain ⟨-, -, hwidth, -⟩ := drawable_of_checks hc
    have hnodup : ((s.drawWords g ti.toNat dx dy mirror).map Prod.fst).Nodup :=
      drawWords_fst s g ti.toNat dx dy mirror ▸ blockWords_nodup hwidth
    exact effectOf_effectOf_of_eq rfl (by
      simp only [effectOf, drawWords_canvas_swap, writeAll_writeAll_same hnodup, respondOk_eq])

theorem exec_halted (hf : s.faulted = true) (i : Instr) : exec i s = .next s.refuseFaulted :=
  (exec_eq i s).trans (runCommand_halted hf _ _)

/-- A command that ended unfaulted does nothing more when it is run again. -/
theorem exec_again {t : State} (h : exec i s = .next t) (hf : t.faulted = false) : exec i t = .next t := by
  obtain ⟨hc, rfl⟩ := exec_unfaulted h hf
  have hagain := exec_done hf ((congrArg firstFailing (checksOf_effectOf i s)).trans hc)
  rwa [effectOf_effectOf hc] at hagain

end Twice

end Sys2Proof.Machine

open Sys2Proof Sys2Proof.Machine

/-- Settles O42: neither command has a check. -/
theorem canvasRegisterWriteResults : Obligations.CanvasRegisterWriteResults := fun _ _ _ _ hf =>
  ⟨exec_done hf rfl, exec_done hf rfl⟩

/-- Settles O43: each word of the block has its own pixel's colour, and a draw writes nothing but the block. -/
theorem drawTileResult : Obligations.DrawTileResult := by
  intro s g ti dx dy mirror hf hd
  have ⟨_, _, hwidth, _⟩ := hd
  exact ⟨_, exec_draw hf hd, rfl,
    fun x y hx hy => draw_word hwidth hx hy g ti mirror,
    fun a ha => draw_other s g ti dx dy mirror ha, draw_sameGrids s g ti dx dy mirror,
    ⟨canvasBase_draw .., canvasWidth_draw .., canvasHeight_draw ..⟩,
    ⟨effectOf_faulted .., effectOf_faultCause ..⟩, effectOf_params .., effectOf_pending ..⟩

/-- Settles O48: a command that succeeded is idempotent, and the state a fault leaves refuses every command. -/
theorem commandsAreIdempotent : Obligations.CommandsAreIdempotent := fun _ t i h =>
  ⟨exec_again h, fun hf => ⟨_, exec_halted hf i, refuseFaulted_answer t⟩⟩

end

section
/-! The host port: what every word is answered (spec/60_exceptions.md R159), what one step performs, what leaves the
halted state (R167), and the host's accesses to canvas memory (spec/20_memory.md R50). -/

namespace Sys2Proof.Machine

/-! ### One step -/

theorem step_idle {s : State} (h : s.pending = []) : step s = .next s := by
  simp [step, h]

theorem step_action {s : State} {a : HostAction} {rest : List HostAction} (h : s.pending = a :: rest) :
    step s = hostAct a { s with pending := rest } := by
  simp [step, h]

/-- A word that decodes is its instruction: in the halted state both are refused alike. -/
theorem issue_of_decode_ok {r : Request} {i : Instr} (h : decode r = .ok i) (s : State) : issue r s = exec i s := by
  by_cases hf : s.faulted = true
  · rw [issue_halted hf, exec_halted hf]
  · simp [issue, hf, h]

/-! ### The halted state -/

theorem hostAct_keeps_halted {a : HostAction} {s t : State} (ha : a ≠ .reset) (hf : s.faulted = true)
    (h : hostAct a s = .next t) : t.faulted = true := by
  cases a with
  | command r =>
    obtain rfl : s.refuseFaulted = t := Host.Outcome.next.inj ((issue_halted hf r).symm.trans h)
    exact hf
  | memRead a =>
    obtain ⟨v, -, -, rfl⟩ := hostRead_cases h
    exact hf
  | memWrite a v =>
    obtain ⟨-, rfl⟩ := hostWrite_cases h
    exact hf
  | reset => exact absurd rfl ha

/-! ### The response classes -/

theorem effectOf_unknownColor {i : Instr} {s : State} {resp : Response}
    (h : (effectOf i s).answer = some (.response resp)) (hstatus : resp.status = .unknownColor) :
    effectOf i s = { s with answer := some (.response resp) } := by
  obtain ⟨c, -, heffect⟩ := effectOf_answer_unknownColor h hstatus
  rw [heffect] at h ⊢
  cases h
  rfl

/-! ### Canvas accesses -/

theorem sameGrids_of_grid {s t : State} (h : ∀ g, t.grid g = s.grid g) : SameGrids s t :=
  ⟨fun g => by simp [h g], raw_congr h, pal_congr h⟩

section Canvas
variable {s : State} {a : Nat} (ha : a < s.params.canvasWords)
include ha

theorem hostRead_written {v : Color} (h : s.canvasWord a = some v) :
    hostAct (.memRead a) s = .next { s with answer := some (.memData v) } := by
  simp [hostAct, hostRead, ha, h]

theorem hostRead_unwritten (h : s.canvasWord a = none) :
    hostAct (.memRead a) s = .fault (.canvasWordUnwritten a) := by
  simp [hostAct, hostRead, ha, h]

theorem hostWrite_next (v : Color) :
    hostAct (.memWrite a v) s = .next { s with canvas := s.canvas.write a v, answer := none } := by
  simp [hostAct, hostWrite, ha]

end Canvas

end Sys2Proof.Machine

open Sys2Proof Sys2Proof.Machine

/-- Settles O11: the halted state answers FAULTED, fault entry FAULT, and an effect OK or UNKNOWN_COLOR. -/
theorem everyCommandAnswersInOneClass : Obligations.EveryCommandAnswersInOneClass := by
  intro s r
  obtain ⟨t, hissue⟩ := issue_next r s
  obtain ⟨hf, rfl⟩ | ⟨hf, c, rfl⟩ | ⟨hf, i, -, -, rfl⟩ := issue_cases hissue
  · exact ⟨_, _, hissue, refuseFaulted_answer s, nofun, nofun, nofun, fun _ => ⟨hf, rfl⟩⟩
  · exact ⟨_, _, hissue, enterFault_answer s c, nofun, nofun, fun _ => ⟨hf, c, rfl⟩, nofun⟩
  · obtain ⟨resp, hanswer, hclass⟩ := effectOf_answer i s
    have hnever {st : Status} (hok : st ≠ .ok) (hunknown : st ≠ .unknownColor) : resp.status ≠ st := by
      rintro rfl
      exact hclass.elim hok fun h => hunknown h.1
    exact ⟨_, resp, hissue, hanswer, fun _ => ⟨hf, (effectOf_faulted i s).trans hf⟩,
      fun hstatus => ⟨hf, effectOf_unknownColor hanswer hstatus⟩,
      fun hstatus => absurd hstatus (hnever nofun nofun), fun hstatus => absurd hstatus (hnever nofun nofun)⟩

/-- Settles O13: commands and canvas accesses leave FAULTED as it is in the halted state. -/
theorem onlyResetLeavesTheHaltedState : Obligations.OnlyResetLeavesTheHaltedState := by
  refine ⟨fun s t hs hstep ht => ?only, fun s rest hpending => ?reset⟩
  case only =>
    obtain ⟨-, rfl⟩ | ⟨a, rest, hpending, hact⟩ := step_cases hstep
    · exact absurd (ht.symm.trans hs) Bool.false_ne_true
    · by_cases ha : a = .reset
      · exact ⟨rest, ha ▸ hpending⟩
      · have hhalted := hostAct_keeps_halted (s := { s with pending := rest }) ha hs hact
        exact absurd (ht.symm.trans hhalted) Bool.false_ne_true
  case reset => exact ⟨_, step_action hpending, rfl, rfl⟩

/-- Settles O50: an applied reset leaves the block at reset, and it touches neither canvas memory nor what the block
does not hold. -/
theorem resetIsAcceptedInEveryState : Obligations.ResetIsAcceptedInEveryState := by
  intro s rest hpending
  obtain ⟨hgrid, hbase, hwidth, hheight, hfaulted, hcause⟩ := applyReset_blockAtReset { s with pending := rest }
  exact ⟨_, step_action hpending, hgrid, hbase, hwidth, hheight, hfaulted, hcause,
    applyReset_canvasWord { s with pending := rest }, rfl, rfl⟩

/-- Settles O51: a write puts the word into canvas memory, where a read finds it. -/
theorem hostCanvasAccess : Obligations.HostCanvasAccess := by
  intro s a v ha
  have hword (b : Nat) : Memory.read (s.canvas.write a v) b = if b = a then some v else s.canvasWord b :=
    read_write s.canvas a v b
  have hread := hostRead_written (s := { s with canvas := s.canvas.write a v, answer := none }) ha
    ((hword a).trans (if_pos rfl))
  exact ⟨⟨_, _, hostWrite_next ha v, (hword a).trans (if_pos rfl), fun b hb => (hword b).trans (if_neg hb),
    sameGrids_of_grid fun g => by cases g <;> rfl, ⟨rfl, rfl, rfl⟩, ⟨rfl, rfl⟩, ⟨rfl, rfl⟩, hread, rfl⟩,
    fun w hw => hostRead_written ha hw, hostRead_unwritten ha⟩

/-- Settles O52: a step performs the next action, and issuing a word that decodes is executing its instruction. -/
theorem stepRunsTheDecodedInstruction : Obligations.StepRunsTheDecodedInstruction :=
  ⟨fun _ _ _ _ hpending hdecode => (step_action hpending).trans (issue_of_decode_ok hdecode _),
    fun _ hpending => step_idle hpending⟩

end

section
/-! The host procedures (spec/44_host_pipelines.md): what a splice writes, what `exportRom` refuses before any command,
and its encoder calls when it succeeds. -/

namespace Sys2Proof.Machine

/-! ### The bytes a splice writes -/

section Splice
variable {rom bytes : List Byte} {offset : Nat}

theorem splice_getElem?_inside (h : offset ≤ rom.length) {b : Nat} (hb : b < bytes.length) :
    (splice rom offset bytes)[offset + b]? = bytes[b]? := by
  have hfront : (rom.take offset).length = offset := List.length_take_of_le h
  rw [splice, List.getElem?_append_left (by rw [List.length_append]; omega),
    List.getElem?_append_right (by omega), hfront, Nat.add_sub_cancel_left]

theorem unpackTile_toList_getElem? (w : BitVec 128) {b : Nat} (hb : b < 16) :
    (unpackTile w).toList[b]? = some (w.extractLsb' (8 * b) 8) := by
  rw [← rawByte_unpackTile w hb, rawByte_lt _ hb]
  simp [hb]

/-- Tile `j` of those spliced in stands at its own 16 bytes: the tiles before it end there, those after it begin
behind. -/
theorem spliceTiles_getElem?_tile {tiles : List (BitVec 128)} (h : offset + tiles.length * 16 ≤ rom.length)
    {j b : Nat} {w : BitVec 128} (hw : tiles[j]? = some w) (hb : b < 16) :
    (spliceTiles rom offset tiles)[offset + j * 16 + b]? = some (w.extractLsb' (8 * b) 8) := by
  induction tiles generalizing rom offset j with
  | nil => cases hw
  | cons w' ws ih =>
    rw [List.length_cons] at h
    have hbytes : (unpackTile w').toList.length = 16 := Vector.length_toList
    have hsplice : (splice rom offset (unpackTile w').toList).length = rom.length := splice_length (by omega)
    rw [spliceTiles]
    cases j with
    | zero =>
      obtain rfl : w' = w := Option.some.inj hw
      rw [spliceTiles_getElem?_outside (by omega) (by omega), Nat.zero_mul, Nat.add_zero,
        splice_getElem?_inside (by omega) (by omega), unpackTile_toList_getElem? w' hb]
    | succ j =>
      rw [show offset + (j + 1) * 16 + b = offset + 16 + j * 16 + b by omega]
      exact ih (by omega) hw

end Splice

/-! ### What `exportRom` refuses -/

/-- A sequence whose first part fails ends there. -/
theorem hostProc_bind_error {α β : Type} {s t : State} {p : HostProc α} {f : α → HostProc β} {e : HostError}
    (h : p.run.run s = (.error e, t)) : (p >>= f).run.run s = (.error e, t) := by
  rw [ExceptT.run_bind, StateT.run_bind, h]
  rfl

theorem exportChecks_eq_false {p : Params} {romLength offset byteLength : Nat}
    (h : byteLength = 0 ∨ byteLength % 16 ≠ 0 ∨ romLength < offset + byteLength) (base : BitVec 32) :
    exportChecks p romLength offset byteLength base = false := by
  by_contra hgood
  rw [Bool.not_eq_false] at hgood
  simp only [exportChecks, Bool.and_eq_true, decide_eq_true_eq] at hgood
  omega

theorem exportRom_refused {s : State} {bytes : List Byte} {job : ExportJob} (h : exportChecks s.params bytes.length
    job.offset job.byteLength job.base = false) (encoder : ImageEncoder) :
    (exportRom (some bytes) job encoder).run.run s = (.error .format, s) := by
  have hget : (get : HostProc State).run.run s = (.ok s, s) := rfl
  simp only [exportRom]
  rw [hostProc_bind_run hget, h]
  exact hostProc_bind_error rfl

/-! ### The encoder calls of `exportRom` -/

/-- Each call was accepted after the calls before it. -/
def Accepted (encoder : ImageEncoder) (calls : List EncodedImage) : Prop :=
  ∀ k e, calls[k]? = some e → encoder (calls.take k) e = true

/-- The encoder calls so far: their files and sizes in order, one pixel a canvas word, each accepted. -/
def CallsMade (encoder : ImageEncoder) (sizes : List (String × Nat × Nat)) (calls : List EncodedImage) : Prop :=
  calls.map (fun e => (e.file, e.image.width, e.image.height)) = sizes ∧
    (∀ e ∈ calls, e.image.pixels.length = e.image.width * e.image.height) ∧ Accepted encoder calls

section Calls
variable {encoder : ImageEncoder} {s t : State}

theorem accepted_append {done : List EncodedImage} {e : EncodedImage} (h : Accepted encoder done)
    (he : encoder done e = true) : Accepted encoder (done ++ [e]) := by
  intro k e' hk
  by_cases hlt : k < done.length
  · rw [List.getElem?_append_left hlt] at hk
    rw [List.take_append_of_le_length hlt.le]
    exact h k e' hk
  · obtain ⟨hle, hlast⟩ := List.getElem?_eq_some_iff.mp hk
    obtain rfl : k = done.length := by
      rw [List.length_append, List.length_singleton] at hle
      omega
    rw [List.getElem_concat_length rfl] at hlast
    rwa [List.take_left, ← hlast]

theorem callsMade_nil : CallsMade encoder [] [] :=
  ⟨rfl, fun _ he => absurd he List.not_mem_nil, fun _ _ hk => by cases hk⟩

theorem imageEncode_callsMade {sizes : List (String × Nat × Nat)} {done out : List EncodedImage} {e : EncodedImage}
    (hdone : CallsMade encoder sizes done) (hpixels : e.image.pixels.length = e.image.width * e.image.height)
    (h : (imageEncode encoder done e).run.run s = (.ok out, t)) :
    CallsMade encoder (sizes ++ [(e.file, e.image.width, e.image.height)]) out := by
  obtain ⟨haccepts, rfl, -⟩ := imageEncode_ok h
  obtain ⟨rfl, hall, haccepted⟩ := hdone
  refine ⟨by simp, fun e' he' => ?_, accepted_append haccepted haccepts⟩
  obtain hold | hnew := List.mem_append.mp he'
  · exact hall e' hold
  · rwa [List.mem_singleton.mp hnew]

theorem exportCurated_callsMade {fill : Color} {layouts : List (CuratedLayout × CuratedRoute)}
    {sizes : List (String × Nat × Nat)} {done out : List EncodedImage} (hdone : CallsMade encoder sizes done)
    (h : (exportCurated fill encoder layouts done).run.run s = (.ok out, t)) :
    CallsMade encoder (sizes ++ layouts.map fun l => (l.1.file, l.1.width.toNat, l.1.height.toNat)) out := by
  induction layouts generalizing s sizes done with
  | nil =>
    obtain ⟨rfl, -⟩ := hostProc_pure_ok h
    simpa using hdone
  | cons l rest ih =>
    obtain ⟨l, route⟩ := l
    rw [exportCurated] at h
    obtain ⟨image, u, hrender, h⟩ := hostProc_bind_ok h
    obtain ⟨done', u', hencode, h⟩ := hostProc_bind_ok h
    obtain ⟨hwidth, hheight, hpixels⟩ := renderLayout_ok hrender
    have hdone' := imageEncode_callsMade hdone (by rw [hpixels, hwidth, hheight]) hencode
    simpa [hwidth, hheight] using ih hdone' h

theorem exportRom_callsMade {rom : List Byte} {job : ExportJob} {out : List EncodedImage}
    (h : (exportRom (some rom) job encoder).run.run s = (.ok out, t)) :
    CallsMade encoder ((job.imageFile, fixedTileWidth * 8, exportRows (job.byteLength / 16) * 8) ::
      job.layouts.map fun l => (l.1.file, l.1.width.toNat, l.1.height.toNat)) out := by
  simp only [exportRom] at h
  obtain ⟨_, u, -, h⟩ := hostProc_bind_ok h
  obtain ⟨_, u, -, h⟩ := hostProc_bind_ok h
  obtain ⟨_, u, -, h⟩ := hostProc_bind_ok h
  obtain ⟨raster, u, hrender, h⟩ := hostProc_bind_ok h
  obtain ⟨done, u, hencode, h⟩ := hostProc_bind_ok h
  obtain ⟨hwidth, hheight, hpixels⟩ := exportRender_ok hrender
  have hraster := imageEncode_callsMade callsMade_nil (by rw [hpixels, hwidth, hheight]) hencode
  simpa only [hwidth, hheight, List.nil_append, List.singleton_append] using exportCurated_callsMade hraster h

end Calls

end Sys2Proof.Machine

open Sys2Proof Sys2Proof.Machine

/-- Settles O55: each tile is written at its own 16 bytes, inside the range. -/
theorem spliceKeepsOtherBytes : Obligations.SpliceKeepsOtherBytes := fun _ _ _ hfits =>
  ⟨spliceTiles_length hfits, fun _ hk => spliceTiles_getElem?_outside hfits hk,
    fun _ _ _ hw hb => spliceTiles_getElem?_tile hfits hw hb⟩

/-- Settles O57: the ROM and the range are looked at before the first command. -/
theorem exportRefusesBadRange : Obligations.ExportRefusesBadRange := fun _ _ job encoder =>
  ⟨rfl, fun hbad => exportRom_refused (exportChecks_eq_false hbad job.base) encoder⟩

/-- Settles O58: the calls made grow by one for the raster and by one for each layout, and a call that is not accepted
ends `exportRom`. -/
theorem exportEncodesEveryImageInOrder : Obligations.ExportEncodesEveryImageInOrder := fun _ _ _ _ _ _ h =>
  exportRom_callsMade h

end
